-- ==== Sys2Proof/Word.lean ====
section
/-! DEFINITION. The word types of the engine (spec/00_scope.md R8, R9): 32-bit registers and command words, and RAM bytes. -/

namespace Sys2Proof

/-- A register or a command word: 32 bits (R8). -/
abbrev Word := BitVec 32

/-- One byte of a RAM, or a byte operand (R9, R50). -/
abbrev Byte := BitVec 8

end Sys2Proof
end

