-- ==== Sys2Proof/Config.lean ====
section
/-! DEFINITION. What the spec leaves to one engine, and the free values (spec/00_scope.md R7, spec/10_state.md R22). -/

namespace Sys2Proof

/-- The chaining sweep of the Sector Content Encoder (R7, R143; spec/90_conflicts.md C1): `doc` is the source's text, `ref` the
published sweep. The spec keeps it open as a parameter (D16). -/
inductive ChainMode where
  | doc
  | ref
deriving DecidableEq, Repr

/-- The CHAIN_MODE that `State.reset` carries: DOC, the default of R7. DESIGN CHOICE (log 5): the spec leaves the parameter open
and names this default. Statements over all states cover both values. -/
def Config.defaultChainMode : ChainMode := .doc

/-- The unspecified value a read of CMD or of an unmapped address returns (R31, R52, D29): a free value, one for each draw. It has
no body, so no proof can know it (log 4). A read narrower than 32 bits takes its low bits. -/
opaque Config.unspecified : Nat → BitVec 32

end Sys2Proof
end

