-- ==== Sys2Proof/Syntax.lean ====
section
/-! DEFINITION. The commands of the engine (spec/30_encoding.md R72 to R74), one constructor per row of the opcode table, with the
pseudo-instructions of R78, the assembler lines of R77 and the host's interactions (spec/60_exceptions.md R217). -/

namespace Sys2Proof

/-- The interleave format, bit F of format T (R73, R161): 0 is primary, 1 is alternate. -/
inductive Interleave where
  | primary
  | alternate
deriving DecidableEq, Repr

/-- One command. Every operand has exactly the width of its field (R72, R73), so every term is a command the encoding admits. -/
inductive Instr where
  /-- NOP, R180. -/
  | nop
  /-- CRC_INIT, R100. -/
  | crcInit
  /-- CRC_BYTE IMM8, R101. -/
  | crcByte (imm8 : Byte)
  /-- CRC_TBUF A, B: start byte and length, R103. -/
  | crcTbuf (a b : BitVec 13)
  /-- CRC_PBUF A, B: start byte and length, R104. -/
  | crcPbuf (a b : BitVec 13)
  /-- BW_SETIDX IMM26, R120. -/
  | bwSetidx (imm26 : BitVec 26)
  /-- BW_BYTE IMM8, R122. -/
  | bwByte (imm8 : Byte)
  /-- BW_4AND4 IMM8, R124. -/
  | bw4and4 (imm8 : Byte)
  /-- BW_SYNC, R126. -/
  | bwSync
  /-- BW_CLEAR, R128. -/
  | bwClear
  /-- SE_ENCODE L: the logical sector, R140. -/
  | seEncode (l : BitVec 4)
  /-- SE_EMIT, R148. -/
  | seEmit
  /-- TE_ENCODE TRK, F, R160. -/
  | teEncode (trk : Byte) (f : Interleave)
deriving DecidableEq, Repr

/-- The thirteen mnemonics of R74, as an assembler line names them (R77). -/
inductive Mnemonic where
  | nop | crcInit | crcByte | crcTbuf | crcPbuf | bwSetidx | bwByte | bw4and4 | bwSync | bwClear | seEncode | seEmit | teEncode
deriving DecidableEq, Repr

/-- The operand formats of R72. -/
inductive Format where
  | z | i8 | r | x26 | s | t
deriving DecidableEq, Repr

/-- One command line of an assembler program (R77): a mnemonic and its operands as numbers, before any check that they fit. -/
structure Source where
  mnemonic : Mnemonic
  operands : List Nat
deriving DecidableEq, Repr

/-- The pseudo-instructions of R78. -/
inductive Pseudo where
  | crc32Tbuf (a n : BitVec 13)
  | crc32Pbuf (a n : BitVec 13)
  | sector (l : BitVec 4)
  | bwRewind
  | bwFresh
  | writeSyncs (n : Nat)
deriving DecidableEq, Repr

/-- The width of a host access (spec/20_memory.md R52). -/
inductive Width where
  | w8 | w16 | w32
deriving DecidableEq, Repr

/-- One interaction of the host with the engine (R52, R217). Addresses are in the 16-bit window of R51; a command is issued by a
32-bit write to CMD (R31). -/
inductive HostAction where
  /-- A read of the given width: RD8, RD32, and the widths R52 gives no move. -/
  | read (w : Width) (addr : BitVec 16)
  /-- WR8 addr, v. -/
  | write8 (addr : BitVec 16) (v : Byte)
  /-- A 16-bit write. -/
  | write16 (addr : BitVec 16) (v : BitVec 16)
  /-- A 32-bit write; to CMD it issues a command. -/
  | write32 (addr : BitVec 16) (v : Word)
  /-- RESET (spec/70_reset_and_hazards.md R230). -/
  | reset
deriving DecidableEq, Repr

end Sys2Proof
end

