-- ==== Sys2Proof/WellFormed.lean ====
section
/-! DEFINITION. What is well formed before the machine runs: a command word (spec/30_encoding.md R74 to R76), an assembler line
(R77) and a host access (spec/20_memory.md R51, R52). A term of `Instr` needs no check: its operands have their fields' widths. -/

namespace Sys2Proof

/-- One row of the opcode map, R74. -/
structure OpRow where
  mnemonic : Mnemonic
  format : Format
  pattern : Word
  mask : Word
deriving DecidableEq, Repr

/-- The opcode map of R74: mnemonic, format, match and mask, in the table's order. -/
def opcodeMap : List OpRow :=
  [ ⟨.nop, .z, 0x00000000#32, 0xFFFFFFFF#32⟩,
    ⟨.crcInit, .z, 0x04000000#32, 0xFFFFFFFF#32⟩,
    ⟨.crcByte, .i8, 0x08000000#32, 0xFFFFFF00#32⟩,
    ⟨.crcTbuf, .r, 0x0C000000#32, 0xFC000000#32⟩,
    ⟨.crcPbuf, .r, 0x10000000#32, 0xFC000000#32⟩,
    ⟨.bwSetidx, .x26, 0x20000000#32, 0xFC000000#32⟩,
    ⟨.bwByte, .i8, 0x24000000#32, 0xFFFFFF00#32⟩,
    ⟨.bw4and4, .i8, 0x28000000#32, 0xFFFFFF00#32⟩,
    ⟨.bwSync, .z, 0x2C000000#32, 0xFFFFFFFF#32⟩,
    ⟨.bwClear, .z, 0x30000000#32, 0xFFFFFFFF#32⟩,
    ⟨.seEncode, .s, 0x40000000#32, 0xFFFFFFF0#32⟩,
    ⟨.seEmit, .z, 0x44000000#32, 0xFFFFFFFF#32⟩,
    ⟨.teEncode, .t, 0x60000000#32, 0xFFFFFE00#32⟩ ]

/-- A word selects a row when `w & mask = match` (R74). -/
def OpRow.selects (row : OpRow) (w : Word) : Bool := (w &&& row.mask) == row.pattern

/-- A command word is legal when it selects a row of the opcode map; every other word is illegal (R74, R76). -/
def wordLegal (w : Word) : Bool := opcodeMap.any (·.selects w)

/-- The operand format of a mnemonic, from the opcode map (R74). -/
def Mnemonic.format : Mnemonic → Format
  | .nop | .crcInit | .bwSync | .bwClear | .seEmit => .z
  | .crcByte | .bwByte | .bw4and4 => .i8
  | .crcTbuf | .crcPbuf => .r
  | .bwSetidx => .x26
  | .seEncode => .s
  | .teEncode => .t

/-- Operands fit their format: the right number of them, each inside its field (R73, R77). -/
def Format.admits : Format → List Nat → Bool
  | .z, [] => true
  | .i8, [v] => decide (v < 2 ^ 8)
  | .r, [a, b] => decide (a < 2 ^ 13) && decide (b < 2 ^ 13)
  | .x26, [i] => decide (i < 2 ^ 26)
  | .s, [l] => decide (l < 2 ^ 4)
  | .t, [trk, f] => decide (trk < 2 ^ 8) && decide (f < 2)
  | _, _ => false

/-- An assembler line is well formed when its operands fit: "An assembler refuses an operand that does not fit its field" (R77). -/
def Source.wellFormed (line : Source) : Bool := line.mnemonic.format.admits line.operands

/-- The addresses of the window that hold something (R51): PBUF, TBUF, EBUF and the register area. -/
def windowMapped (a : Nat) : Bool :=
  decide (a < 0x1000) || (decide (0x2000 ≤ a) && decide (a < 0x3A00)) || (decide (0x4000 ≤ a) && decide (a < 0x4157)) ||
    (decide (0x5000 ≤ a) && decide (a < 0x5024))

/-- The RAM part of the window (R51). -/
def windowRam (a : Nat) : Bool := windowMapped a && decide (a < 0x5000)

/-- How many bytes an access of a width covers. -/
def Width.bytes : Width → Nat
  | .w8 => 1
  | .w16 => 2
  | .w32 => 4

/-- The host contract of R52 for an access of a width at an address: an 8-bit access to a RAM byte; a 32-bit access to a
register, at a multiple of 4; or an access of any width all of whose bytes are unmapped (log 10). Every other access is outside
the contract. -/
def accessAllowed (w : Width) (addr : BitVec 16) : Bool :=
  let a := addr.toNat
  (w == .w8 && windowRam a) ||
    (w == .w32 && decide (0x5000 ≤ a) && decide (a < 0x5024) && decide (a % 4 = 0)) ||
    (List.range w.bytes).all (fun k => !windowMapped (a + k))

/-- A host interaction is well formed when it keeps the host contract (R52, R217). -/
def HostAction.wellFormed : HostAction → Bool
  | .read w a => accessAllowed w a
  | .write8 a _ => accessAllowed .w8 a
  | .write16 a _ => accessAllowed .w16 a
  | .write32 a _ => accessAllowed .w32 a
  | .reset => true

end Sys2Proof
end

