-- ==== Sys2Proof/Decode.lean ====
section
/-! DEFINITION. Decoding a command word (spec/30_encoding.md R70 to R76), the encoder from the same tables, and the assembler of
one line and of a pseudo-instruction (R77, R78). -/

namespace Sys2Proof

/-- Why a word is no command; both reasons raise ILLEGAL_CMD (R75, R76). -/
inductive DecodeError where
  /-- OP is not in the opcode map of R74. -/
  | reservedOp
  /-- A reserved bit of the format is 1. -/
  | reservedBits
deriving DecidableEq, Repr

/-- The opcode, bits [31:26] (R71). -/
def opField (w : Word) : BitVec 6 := w.extractLsb' 26 6

/-- Format Z: no operand, bits [25:0] reserved (R72). -/
def decodeZ (w : Word) (i : Instr) : Except DecodeError Instr :=
  if w.extractLsb' 0 26 = 0#26 then .ok i else .error .reservedBits

/-- Format I8: IMM8 = cmd[7:0], bits [25:8] reserved (R72, R73). -/
def decodeI8 (w : Word) (mk : Byte → Instr) : Except DecodeError Instr :=
  if w.extractLsb' 8 18 = 0#18 then .ok (mk (w.extractLsb' 0 8)) else .error .reservedBits

/-- Format R: A = cmd[25:13], B = cmd[12:0], nothing reserved (R72, R73). -/
def decodeR (w : Word) (mk : BitVec 13 → BitVec 13 → Instr) : Except DecodeError Instr :=
  .ok (mk (w.extractLsb' 13 13) (w.extractLsb' 0 13))

/-- Format X26: IMM26 = cmd[25:0], nothing reserved (R72, R73). -/
def decodeX26 (w : Word) (mk : BitVec 26 → Instr) : Except DecodeError Instr :=
  .ok (mk (w.extractLsb' 0 26))

/-- Format S: L = cmd[3:0], bits [25:4] reserved (R72, R73). -/
def decodeS (w : Word) (mk : BitVec 4 → Instr) : Except DecodeError Instr :=
  if w.extractLsb' 4 22 = 0#22 then .ok (mk (w.extractLsb' 0 4)) else .error .reservedBits

/-- Bit F of format T: 0 primary, 1 alternate (R73). -/
def interleaveOfBit (b : BitVec 1) : Interleave := if b = 1#1 then .alternate else .primary

/-- Format T: TRK = cmd[7:0], F = cmd[8], bits [25:9] reserved (R72, R73). -/
def decodeT (w : Word) (mk : Byte → Interleave → Instr) : Except DecodeError Instr :=
  if w.extractLsb' 9 17 = 0#17 then .ok (mk (w.extractLsb' 0 8) (interleaveOfBit (w.extractLsb' 8 1)))
  else .error .reservedBits

/-- Decoding of R75: the opcode selects the row of R74, and its format's reserved bits must be 0. -/
def decode (w : Word) : Except DecodeError Instr :=
  match (opField w).toNat with
  | 0x00 => decodeZ w .nop
  | 0x01 => decodeZ w .crcInit
  | 0x02 => decodeI8 w .crcByte
  | 0x03 => decodeR w .crcTbuf
  | 0x04 => decodeR w .crcPbuf
  | 0x08 => decodeX26 w .bwSetidx
  | 0x09 => decodeI8 w .bwByte
  | 0x0A => decodeI8 w .bw4and4
  | 0x0B => decodeZ w .bwSync
  | 0x0C => decodeZ w .bwClear
  | 0x10 => decodeS w .seEncode
  | 0x11 => decodeZ w .seEmit
  | 0x18 => decodeT w .teEncode
  | _ => .error .reservedOp

/-- The instruction read from a table word: commands are written to CMD as whole 32-bit words (R31, R70), so the word is the
low `nbits` bits of `w`, zero above. -/
def decodeTableWord (nbits w : Nat) : Option Instr :=
  match decode (BitVec.ofNat 32 (w % 2 ^ nbits)) with
  | .ok i => some i
  | .error _ => none

/-- Bit F of an interleave format (R73). -/
def bitOfInterleave : Interleave → BitVec 1
  | .primary => 0#1
  | .alternate => 1#1

/-- The word of a command: opcode in [31:26], operands in their fields, reserved bits 0 (R71 to R74). -/
def encode : Instr → Word
  | .nop => 0x00#6 ++ 0#26
  | .crcInit => 0x01#6 ++ 0#26
  | .crcByte v => 0x02#6 ++ 0#18 ++ v
  | .crcTbuf a b => 0x03#6 ++ a ++ b
  | .crcPbuf a b => 0x04#6 ++ a ++ b
  | .bwSetidx i => 0x08#6 ++ i
  | .bwByte v => 0x09#6 ++ 0#18 ++ v
  | .bw4and4 v => 0x0A#6 ++ 0#18 ++ v
  | .bwSync => 0x0B#6 ++ 0#26
  | .bwClear => 0x0C#6 ++ 0#26
  | .seEncode l => 0x10#6 ++ 0#22 ++ l
  | .seEmit => 0x11#6 ++ 0#26
  | .teEncode trk f => 0x18#6 ++ 0#17 ++ bitOfInterleave f ++ trk

/-- The command of an assembler line whose operands fit their fields; none where the assembler refuses the line (R77). -/
def assemble (line : Source) : Option Instr :=
  if line.wellFormed then
    match line.mnemonic, line.operands with
    | .nop, [] => some .nop
    | .crcInit, [] => some .crcInit
    | .crcByte, [v] => some (.crcByte (BitVec.ofNat 8 v))
    | .crcTbuf, [a, b] => some (.crcTbuf (BitVec.ofNat 13 a) (BitVec.ofNat 13 b))
    | .crcPbuf, [a, b] => some (.crcPbuf (BitVec.ofNat 13 a) (BitVec.ofNat 13 b))
    | .bwSetidx, [i] => some (.bwSetidx (BitVec.ofNat 26 i))
    | .bwByte, [v] => some (.bwByte (BitVec.ofNat 8 v))
    | .bw4and4, [v] => some (.bw4and4 (BitVec.ofNat 8 v))
    | .bwSync, [] => some .bwSync
    | .bwClear, [] => some .bwClear
    | .seEncode, [l] => some (.seEncode (BitVec.ofNat 4 l))
    | .seEmit, [] => some .seEmit
    | .teEncode, [trk, f] => some (.teEncode (BitVec.ofNat 8 trk) (interleaveOfBit (BitVec.ofNat 1 f)))
    | _, _ => none
  else none

/-- The command sequence a pseudo-instruction stands for (R78). -/
def expandPseudo : Pseudo → List Instr
  | .crc32Tbuf a n => [.crcInit, .crcTbuf a n]
  | .crc32Pbuf a n => [.crcInit, .crcPbuf a n]
  | .sector l => [.seEncode l, .seEmit]
  | .bwRewind => [.bwSetidx 0#26]
  | .bwFresh => [.bwClear, .bwSetidx 0#26]
  | .writeSyncs n => List.replicate n .bwSync

end Sys2Proof
end

