-- ==== Sys2Proof/Machine/State.lean ====
section
/-! DEFINITION. The engine's state as plain data (spec/10_state.md), the reasons a step stops, and the state after reset (R39,
spec/70_reset_and_hazards.md R230). -/

namespace Sys2Proof.Machine

/-- The three RAM address spaces (spec/20_memory.md R50). -/
inductive Space where
  | pbuf
  | tbuf
  | ebuf
deriving DecidableEq, Repr

/-- The registers of R23 at their window offsets. CMD and CRC_OUT hold no storage (R24, R31). -/
inductive Reg where
  | cmd | status | faultcmd | crcAcc | crcOut | bidx | bitcnt | trkfmt | config
deriving DecidableEq, Repr

/-- The architected faults (spec/60_exceptions.md R201). Each is recorded in STATUS and FAULTCMD and the machine goes on. -/
inductive FaultCode where
  | illegalCmd
  | capacity
  | range
deriving DecidableEq, Repr

/-- What ends a command's body early: an architected fault, or the read of an undefined byte (R200). -/
inductive Stop where
  | raised (code : FaultCode)
  | undefRead (space : Space) (addr : Nat)
deriving DecidableEq, Repr

/-- Why a step stops the run. -/
inductive Fault where
  /-- UNDEF_READ (R206): a command or a host read met a RAM byte nothing has written since reset. Raised by CRC_TBUF, CRC_PBUF,
  SE_ENCODE, SE_EMIT, TE_ENCODE and 8-bit host reads. Safe: the chip returns some byte, the model gives none (log 8). -/
  | undefRead (space : Space) (addr : Nat)
deriving DecidableEq, Repr

/-- Why a step has no meaning. -/
inductive Refusal where
  /-- Raised only by an arm of `exec` whose instruction has no meaning yet. Safe: nothing is claimed of it. -/
  | notModelled (mnemonic : String)
  /-- A host access outside the contract of R52: "the model gives it no move". Raised by `hostStep` alone, never by a command. Safe
  in that no claim about a next state covers it (log 9). -/
  | noMove (act : HostAction)
deriving DecidableEq, Repr

/-- What a host read gives back (R52): one value of the access's width. -/
inductive HostValue where
  | byte (v : Byte)
  | half (v : BitVec 16)
  | word (v : Word)
deriving DecidableEq, Repr

/-- A RAM: its defined bytes as (address, byte) pairs, addresses strictly rising. An address not listed is undefined (R37). -/
abbrev Memory := List Host.Cell

/-- The state of the machine. -/
structure State where
  /-- CRC_ACC, R24. -/
  crcAcc : Word
  /-- BIDX, R25. -/
  bidx : Word
  /-- BITCNT, R26. -/
  bitcnt : Word
  /-- TRKFMT, R27. -/
  trkfmt : Word
  /-- STATUS, R29. -/
  status : Word
  /-- FAULTCMD, R30. -/
  faultcmd : Word
  /-- The hardwired CHAIN_MODE that CONFIG shows (R28). No step writes it. -/
  chainMode : ChainMode
  /-- PBUF, R34. -/
  pbuf : Memory
  /-- TBUF, R35. -/
  tbuf : Memory
  /-- EBUF, R36. -/
  ebuf : Memory
  /-- The model's own: how many unspecified values have been drawn (log 4). -/
  draws : Nat
  /-- The model's own: the host interactions still to come, in order (R21, R217, R218; log 1). -/
  pending : List HostAction
  /-- The model's own: what the host's reads returned, newest first (log 3). -/
  readLog : List HostValue
deriving DecidableEq, Repr

/-- The machine right after power-on reset (R39, R230): the registers at their reset values, every RAM byte undefined, no host
interaction pending. CHAIN_MODE is the default of R7 (log 5). -/
def State.reset : State where
  crcAcc := 0xFFFFFFFF#32
  bidx := 0#32
  bitcnt := 0#32
  trkfmt := 0#32
  status := 0#32
  faultcmd := 0#32
  chainMode := Config.defaultChainMode
  pbuf := []
  tbuf := []
  ebuf := []
  draws := 0
  pending := []
  readLog := []

end Sys2Proof.Machine
end

