-- ==== Sys2Proof/Machine/Flags.lean ====
section
/-! DEFINITION. The engine's only flag and the fields of its packed registers: STATUS (spec/10_state.md R29), TRKFMT (R27) and
CONFIG (R28). No command computes a condition flag (R29). -/

namespace Sys2Proof.Machine

/-- STATUS.FAULT, bit 0 (R29). -/
def faultFlag (s : State) : Bool := s.status.getLsbD 0

/-- STATUS.FCODE, bits [11:8] (R29). -/
def fcode (s : State) : BitVec 4 := s.status.extractLsb' 8 4

/-- The code FCODE holds for an architected fault (spec/60_exceptions.md R201). -/
def faultNumber : FaultCode → BitVec 4
  | .illegalCmd => 1#4
  | .capacity => 2#4
  | .range => 3#4

/-- The STATUS word of fault entry: `(c << 8) | 1`, reserved bits 0 (R203). -/
def statusWord (c : FaultCode) : Word := ((faultNumber c).setWidth 32 <<< 8) ||| 1#32

/-- TRKFMT after TE_ENCODE: `TRK | (F << 8)` (R27, R160). -/
def trkfmtWord (trk : Byte) (f : Interleave) : Word :=
  trk.setWidth 32 ||| ((bitOfInterleave f).setWidth 32 <<< 8)

/-- The CONFIG word: bit 0 is CHAIN_MODE, the others read 0 (R28). -/
def configWord : ChainMode → Word
  | .doc => 0#32
  | .ref => 1#32

end Sys2Proof.Machine
end

