-- ==== Sys2Proof/Machine/Operands.lean ====
section
/-! DEFINITION. The operands of the commands as the rules use them: zero-extended numbers (spec/30_encoding.md R73). -/

namespace Sys2Proof.Machine

/-- IMM26 as BW_SETIDX stores it: `zext_32(IMM26)` (R73, R120). -/
def zext32 (imm26 : BitVec 26) : Word := imm26.setWidth 32

/-- The start byte A of a range operand, as a natural number (R73, R102). -/
def rangeStart (a : BitVec 13) : Nat := a.toNat

/-- The length B of a range operand, as a natural number (R73, R102). -/
def rangeLength (b : BitVec 13) : Nat := b.toNat

/-- The first PBUF byte of logical sector L: 256·L (spec/10_state.md R34). -/
def sectorBase (l : Nat) : Nat := sectorBytes * l

/-- The number of bytes of a RAM (R6, R50). -/
def Space.size : Space → Nat
  | .pbuf => pbufBytes
  | .tbuf => tbufBytes
  | .ebuf => ebufBytes

/-- The interleave multiplier of format F (R161). -/
def multiplier : Interleave → Nat
  | .primary => multPrimary
  | .alternate => multAlternate

/-- The logical sector written into physical slot s (spec/43_track_encoder.md R161). -/
def logicalSector (s : Nat) (f : Interleave) : Nat :=
  if s = 15 then 15 else (s * multiplier f) % 15

/-- The address field's checksum `254 ^ TRK ^ s` (R162). -/
def addressChecksum (trk : Byte) (s : Nat) : Byte := volume ^^^ trk ^^^ BitVec.ofNat 8 s

end Sys2Proof.Machine
end

