-- ==== Sys2Proof/Machine/Ops.lean ====
section
/-! DEFINITION. The shared operations: the RAM primitives (spec/20_memory.md R53), register updates, fault entry and reset
(spec/60_exceptions.md R203, R209; spec/70_reset_and_hazards.md R230), and how a command's body ends. -/

namespace Sys2Proof.Machine

/-! ### RAM contents -/

/-- The byte at an address, none where it is undefined (R37). -/
def Memory.read : Memory → Nat → Option Byte
  | [], _ => none
  | (k, v) :: rest, a => if k = a then some v else Memory.read rest a

/-- Stores a byte and marks it defined (R53), keeping the addresses rising. -/
def Memory.write : Memory → Nat → Byte → Memory
  | [], a, v => [(a, v)]
  | (k, w) :: rest, a, v =>
    if a < k then (a, v) :: (k, w) :: rest
    else if k = a then (a, v) :: rest
    else (k, w) :: Memory.write rest a v

/-- MemOr of R53: ORs into a defined byte; an undefined byte stays undefined. -/
def Memory.or : Memory → Nat → Byte → Memory
  | [], _, _ => []
  | (k, w) :: rest, a, v => if k = a then (k, w ||| v) :: rest else (k, w) :: Memory.or rest a v

/-- A RAM whose bytes 0..n−1 all hold v: what storing v at each of them leaves, whatever it held before. -/
def Memory.filled (n : Nat) (v : Byte) : Memory := (List.range n).map (fun a => (a, v))

/-- Addresses strictly rising from `lo` and below `size`. -/
def Memory.wfFrom (lo size : Nat) : Memory → Bool
  | [] => true
  | (k, _) :: rest => decide (lo ≤ k) && decide (k < size) && Memory.wfFrom (k + 1) size rest

/-- The canonical form of a RAM of `size` bytes: addresses strictly rising, all inside the RAM. An unlisted address has no value,
so no listed byte can equal it. -/
def Memory.wf (size : Nat) (m : Memory) : Bool := Memory.wfFrom 0 size m

/-- TBUF bit k is bit `7 - (k & 7)` of byte `k >> 3` (R55); none where the byte is undefined. -/
def Memory.bit (m : Memory) (k : Nat) : Option Bool := (Memory.read m (k / 8)).map (fun v => v.getLsbD (7 - k % 8))

/-! ### State updates -/

/-- The RAM of an address space (R50). -/
def State.mem (s : State) : Space → Memory
  | .pbuf => s.pbuf
  | .tbuf => s.tbuf
  | .ebuf => s.ebuf

/-- Replaces the RAM of an address space. -/
def State.setMem (s : State) (sp : Space) (m : Memory) : State :=
  match sp with
  | .pbuf => { s with pbuf := m }
  | .tbuf => { s with tbuf := m }
  | .ebuf => { s with ebuf := m }

/-- `CRC_ACC <- v` (R24). -/
def State.setCrcAcc (s : State) (v : Word) : State := { s with crcAcc := v }

/-- `BIDX <- n`, reduced to the register's 32 bits (R10, R25). -/
def State.setBidx (s : State) (n : Nat) : State := { s with bidx := BitVec.ofNat 32 n }

/-- TE_ENCODE's last two writes: `BITCNT <- BIDX` and `TRKFMT <- TRK | (F << 8)` (R160). -/
def State.setTrack (s : State) (trk : Byte) (f : Interleave) : State :=
  { s with bitcnt := s.bidx, trkfmt := trkfmtWord trk f }

/-- Hands a value to the host (R52). -/
def State.logRead (s : State) (v : HostValue) : State := { s with readLog := v :: s.readLog }

/-- Counts one drawn unspecified value (D29, log 4). -/
def State.countDraw (s : State) : State := { s with draws := s.draws + 1 }

/-! ### Engine access primitives (R53) -/

/-- `MemRead(space, a, 1)`: the byte, or UNDEF_READ. -/
def memRead (sp : Space) (a : Nat) (s : State) : Except Stop Byte :=
  match Memory.read (s.mem sp) a with
  | some v => .ok v
  | none => .error (.undefRead sp a)

/-- `MemWrite(space, a, 1, v)`. -/
def memWrite (sp : Space) (a : Nat) (v : Byte) (s : State) : State := s.setMem sp (Memory.write (s.mem sp) a v)

/-- `MemOr(space, a, v)`. -/
def memOr (sp : Space) (a : Nat) (v : Byte) (s : State) : State := s.setMem sp (Memory.or (s.mem sp) a v)

/-- `MemRead` at n addresses from a, in rising order. -/
def readRange (sp : Space) : (a n : Nat) → State → Except Stop (List Byte)
  | _, 0, _ => .ok []
  | a, n + 1, s =>
    match memRead sp a s with
    | .error e => .error e
    | .ok v =>
      match readRange sp (a + 1) n s with
      | .error e => .error e
      | .ok vs => .ok (v :: vs)

/-- `MemWrite` of a list of bytes at a, a + 1, ..., in that order. -/
def writeRange (sp : Space) : (a : Nat) → List Byte → State → State
  | _, [], s => s
  | a, v :: vs, s => writeRange sp (a + 1) vs (memWrite sp a v s)

/-! ### Sequencing a command's body -/

/-- One action after another; the first stop ends the body at once (R11). -/
def andThen (first : State → Except Stop State) (second : State → Except Stop State) (s : State) : Except Stop State :=
  match first s with
  | .ok t => second t
  | .error e => .error e

/-- An action n times in a row (R12). -/
def repeated (n : Nat) (act : State → Except Stop State) : State → Except Stop State :=
  match n with
  | 0 => fun s => .ok s
  | n + 1 => andThen act (repeated n act)

/-- An action for each element of a list, in order (R12). -/
def forEach {α : Type} (act : α → State → Except Stop State) : List α → State → Except Stop State
  | [] => fun s => .ok s
  | x :: xs => andThen (act x) (forEach act xs)

/-! ### Faults and reset -/

/-- Fault entry (R203): STATUS and FAULTCMD are written and nothing else. There is no handler, saved context or mode change. -/
def enterFault (c : FaultCode) (cmd : Word) (s : State) : State :=
  { s with status := statusWord c, faultcmd := cmd }

/-- The reset action (R230), the only way out of the faulted state (R204, R209): registers to their values of R39, every RAM byte
undefined. CONFIG and the ROMs stay (R28), and so do the model's own fields (log 13). -/
def resetEngine (s : State) : State :=
  { s with
    crcAcc := crcInitValue, bidx := 0#32, bitcnt := 0#32, trkfmt := 0#32, status := 0#32, faultcmd := 0#32,
    pbuf := [], tbuf := [], ebuf := [] }

/-- How command `i`, issued in state s, ends. A finished body gives the next state. An architected fault is precise: the state is
that before the command, plus fault entry with the command's word (R203; the word is `encode i`, log 11). An undefined read ends
the run (R206). -/
def complete (i : Instr) (s : State) : Except Stop State → Host.Outcome State Fault Refusal
  | .ok t => .next t
  | .error (.raised c) => .next (enterFault c (encode i) s)
  | .error (.undefRead sp a) => .fault (.undefRead sp a)

end Sys2Proof.Machine
end

