-- ==== Sys2Proof/Machine/BitWriter.lean ====
section
/-! DEFINITION. The Bit Writer commands (spec/41_bit_writer.md R120 to R129). -/

namespace Sys2Proof.Machine

/-- The capacity check of R121 for a write that advances the cursor by n bits: CAPACITY if `BIDX + n > CAP_BITS`. -/
def checkCapacity (n : Nat) (s : State) : Except Stop State :=
  if s.bidx.toNat + n > capBits then .error (.raised .capacity) else .ok s

/-- The stores of `put8(idx, v)` (R122): `v >> shift` into byte `idx >> 3` and, when shift is not 0, `v << (8 - shift)`
truncated into the next byte, where `shift = idx & 7`. -/
def put8 (idx : Nat) (v : Byte) (s : State) : State :=
  let shift := idx % 8
  let p := idx / 8
  let s := memOr .tbuf p (v >>> shift) s
  if shift = 0 then s else memOr .tbuf (p + 1) (v <<< (8 - shift)) s

/-- `BIDX <- BIDX + n`. -/
def advance (n : Nat) (s : State) : State := s.setBidx (s.bidx.toNat + n)

/-- `BIDX <- put8(BIDX, v)` (R122). -/
def putByte (v : Byte) (s : State) : State := advance 8 (put8 s.bidx.toNat v s)

/-- The first byte of the 4-and-4 form: `(v >> 1) | 0xAA` (R124). -/
def fourAndFourOdd (v : Byte) : Byte := (v >>> 1) ||| 0xAA#8

/-- The second byte of the 4-and-4 form: `v | 0xAA` (R124). -/
def fourAndFourEven (v : Byte) : Byte := v ||| 0xAA#8

/-- The body of BW_BYTE with its capacity check (R121, R122). -/
def byteBody (v : Byte) : State → Except Stop State :=
  andThen (checkCapacity 8) (fun s => .ok (putByte v s))

/-- The body of BW_4AND4, checked once before its first byte (R124). -/
def w44Body (v : Byte) : State → Except Stop State :=
  andThen (checkCapacity 16) (fun s => .ok (putByte (fourAndFourEven v) (putByte (fourAndFourOdd v) s)))

/-- The body of BW_SYNC: the byte 0xFF, then two bits skipped and not written (R126). -/
def syncBody : State → Except Stop State :=
  andThen (checkCapacity (8 + syncSlackBits)) (fun s => .ok (advance syncSlackBits (putByte syncByte s)))

/-- Zeroes TBUF: `for a in [0, 6656): MemWrite(TBUF, a, 1, 0)` (R128). Every byte is stored, so nothing of the old contents
stays (log 12). -/
def clearTbuf (s : State) : State := s.setMem .tbuf (Memory.filled tbufBytes 0#8)

/-- BW_SETIDX, R120. -/
def execBwSetidx (imm26 : BitVec 26) (s : State) : Host.Outcome State Fault Refusal :=
  .next (s.setBidx (zext32 imm26).toNat)

/-- BW_BYTE, R122. -/
def execBwByte (imm8 : Byte) (s : State) : Host.Outcome State Fault Refusal :=
  complete (.bwByte imm8) s (byteBody imm8 s)

/-- BW_4AND4, R124. -/
def execBw4and4 (imm8 : Byte) (s : State) : Host.Outcome State Fault Refusal :=
  complete (.bw4and4 imm8) s (w44Body imm8 s)

/-- BW_SYNC, R126. -/
def execBwSync (s : State) : Host.Outcome State Fault Refusal := complete .bwSync s (syncBody s)

/-- BW_CLEAR, R128: BIDX is not changed. -/
def execBwClear (s : State) : Host.Outcome State Fault Refusal := .next (clearTbuf s)

end Sys2Proof.Machine
end

