-- ==== Sys2Proof/Machine/Crc.lean ====
section
/-! DEFINITION. The CRC32 engine commands (spec/40_crc.md R100 to R106). -/

namespace Sys2Proof.Machine

/-- `step(acc, b) = CRCT[(acc ^ b) & 0xFF] ^ (acc >> 8)` (R101). -/
def crcStep (acc : Word) (b : Byte) : Word :=
  crct ((acc ^^^ b.setWidth 32) &&& 0xFF#32).toNat ^^^ (acc >>> 8)

/-- What CRC_OUT reads: `CRC_ACC ^ 0xFFFFFFFF` (spec/10_state.md R24). -/
def crcOut (acc : Word) : Word := acc ^^^ crcXorOut

/-- The source's pure function: the step over the bytes from all ones, then the final XOR (R105). -/
def crc32 (bytes : List Byte) : Word := crcOut (bytes.foldl crcStep crcInitValue)

/-- Range check of R102: RANGE unless `A + B <= size`, in unbounded arithmetic. -/
def checkRange (sp : Space) (a b : BitVec 13) (s : State) : Except Stop State :=
  if rangeStart a + rangeLength b > sp.size then .error (.raised .range) else .ok s

/-- Absorbs n bytes of a RAM from address a, in rising order: CRC_ACC is written after each read (R103, R104). -/
def absorbRange (sp : Space) : (a n : Nat) → State → Except Stop State
  | _, 0, s => .ok s
  | a, n + 1, s =>
    match memRead sp a s with
    | .error e => .error e
    | .ok v => absorbRange sp (a + 1) n (s.setCrcAcc (crcStep s.crcAcc v))

/-- The body shared by CRC_TBUF and CRC_PBUF: the check, then the bytes (R102 to R104). -/
def crcRangeBody (sp : Space) (a b : BitVec 13) : State → Except Stop State :=
  andThen (checkRange sp a b) (absorbRange sp (rangeStart a) (rangeLength b))

/-- CRC_INIT, R100. -/
def execCrcInit (s : State) : Host.Outcome State Fault Refusal := .next (s.setCrcAcc crcInitValue)

/-- CRC_BYTE, R101. -/
def execCrcByte (imm8 : Byte) (s : State) : Host.Outcome State Fault Refusal :=
  .next (s.setCrcAcc (crcStep s.crcAcc imm8))

/-- CRC_TBUF, R103. -/
def execCrcTbuf (a b : BitVec 13) (s : State) : Host.Outcome State Fault Refusal :=
  complete (.crcTbuf a b) s (crcRangeBody .tbuf a b s)

/-- CRC_PBUF, R104. -/
def execCrcPbuf (a b : BitVec 13) (s : State) : Host.Outcome State Fault Refusal :=
  complete (.crcPbuf a b) s (crcRangeBody .pbuf a b s)

end Sys2Proof.Machine
end

