-- ==== Sys2Proof/Machine/SectorEncoder.lean ====
section
/-! DEFINITION. The Sector Content Encoder commands (spec/42_sector_encoder.md R140 to R149). -/

namespace Sys2Proof.Machine

/-- The bit reversal of two-bit values, [0, 2, 1, 3] (spec/00_scope.md R13). -/
def rev2 (v : BitVec 2) : Byte :=
  match v.toNat with
  | 0 => 0#8
  | 1 => 2#8
  | 2 => 1#8
  | _ => 3#8

/-- `rev2(p[c] & 3)`: the reversed low two bits of payload byte c (R141). -/
def lowRev (p : List Byte) (c : Nat) : Byte := rev2 ((p.getD c 0#8).setWidth 2)

/-- The 86 low-bits values out6[0..85] (R141). -/
def lowBits (p : List Byte) : List Byte :=
  (List.range 84).map (fun c => lowRev p c ||| (lowRev p (c + 86) <<< 2) ||| (lowRev p (c + 172) <<< 4)) ++
    [lowRev p 84 ||| (lowRev p 170 <<< 2), lowRev p 85 ||| (lowRev p 171 <<< 2)]

/-- The 256 high-bits values out6[86..341] (R142). -/
def highBits (p : List Byte) : List Byte := (List.range 256).map (fun c => p.getD c 0#8 >>> 2)

/-- out6[0..341] before chaining: the q of R143. -/
def unchained (p : List Byte) : List Byte := lowBits p ++ highBits p

/-- `for i from lo + n - 1 downto lo: out6[i] <- out6[i] ^ out6[i - 1]`, in place and downward (R143). -/
def sweepDown (lo : Nat) : (n : Nat) → List Byte → List Byte
  | 0, out6 => out6
  | n + 1, out6 =>
    sweepDown lo n (out6.set (lo + n) (out6.getD (lo + n) 0#8 ^^^ out6.getD (lo + n - 1) 0#8))

/-- Checksum chaining (R143): out6[342] takes out6[341], then the sweep of CHAIN_MODE, 342 down to 2 (DOC) or 341 down to 1
(REF). Each sweep has 341 steps. -/
def chain (mode : ChainMode) (q : List Byte) : List Byte :=
  let out6 := q ++ [q.getD 341 0#8]
  match mode with
  | .doc => sweepDown 2 341 out6
  | .ref => sweepDown 1 341 out6

/-- The 343 disk bytes of a 256-byte payload (R140 to R144). -/
def encodeSector (mode : ChainMode) (p : List Byte) : List Byte := (chain mode (unchained p)).map gcr62

/-- The body of SE_ENCODE for logical sector l: read the payload, encode it, store all of EBUF (R140). -/
def encodeBody (l : Nat) (s : State) : Except Stop State :=
  match readRange .pbuf (sectorBase l) sectorBytes s with
  | .error e => .error e
  | .ok p => .ok (writeRange .ebuf 0 (encodeSector s.chainMode p) s)

/-- The loop of SE_EMIT: `BIDX <- put8(BIDX, MemRead(EBUF, i, 1))` for the n bytes from i on (R148). -/
def emitLoop : (i n : Nat) → State → Except Stop State
  | _, 0, s => .ok s
  | i, n + 1, s =>
    match memRead .ebuf i s with
    | .error e => .error e
    | .ok v => emitLoop (i + 1) n (putByte v s)

/-- The body of SE_EMIT: the capacity of all 343 bytes is checked before the first (R148). -/
def emitBody : State → Except Stop State :=
  andThen (checkCapacity (ebufBytes * 8)) (emitLoop 0 ebufBytes)

/-- SE_ENCODE, R140. -/
def execSeEncode (l : BitVec 4) (s : State) : Host.Outcome State Fault Refusal :=
  complete (.seEncode l) s (encodeBody l.toNat s)

/-- SE_EMIT, R148. -/
def execSeEmit (s : State) : Host.Outcome State Fault Refusal := complete .seEmit s (emitBody s)

end Sys2Proof.Machine
end

