-- ==== Sys2Proof/Machine/System.lean ====
section
/-! DEFINITION. The system command (spec/44_system.md R180). The engine has no control transfer and no privileged command (R181,
R182). -/

namespace Sys2Proof.Machine

/-- NOP, R180: no effect. -/
def execNop (s : State) : Host.Outcome State Fault Refusal := .next s

end Sys2Proof.Machine
end

