-- ==== Sys2Proof/Machine/TrackEncoder.lean ====
section
/-! DEFINITION. The Track Encoder command (spec/43_track_encoder.md R160 to R168). -/

namespace Sys2Proof.Machine

/-- `put8 each of` a list of bytes, each with its capacity check (R160). -/
def fieldBytes (bytes : List Byte) : State → Except Stop State := forEach byteBody bytes

/-- Writes EBUF byte i at the cursor, with the capacity check of one byte (R160 step 3b). -/
def dataByte (i : Nat) (s : State) : Except Stop State :=
  match memRead .ebuf i s with
  | .error e => .error e
  | .ok v => byteBody v s

/-- Address field of physical sector k: prologue, volume, track, sector and checksum in 4-and-4 form, epilogue (R160 step 3a,
R162). -/
def addressField (trk : Byte) (k : Nat) : State → Except Stop State :=
  andThen (fieldBytes addrPrologue)
    (andThen (forEach w44Body [volume, trk, BitVec.ofNat 8 k, addressChecksum trk k]) (fieldBytes epilogue))

/-- Data field of physical sector k: prologue, the encoding of its logical sector through EBUF, epilogue (R160 step 3b). -/
def dataField (f : Interleave) (k : Nat) : State → Except Stop State :=
  andThen (fieldBytes dataPrologue)
    (andThen (encodeBody (logicalSector k f))
      (andThen (forEach dataByte (List.range ebufBytes)) (fieldBytes epilogue)))

/-- What follows a data field: 16 sync words, or the single filler byte after the last sector (R160 step 3c, R168). -/
def sectorGap (k : Nat) : State → Except Stop State :=
  if k = 15 then byteBody syncByte else repeated sectorGapSyncs syncBody

/-- One physical sector of the track (R160 step 3). -/
def sectorBody (trk : Byte) (f : Interleave) (k : Nat) : State → Except Stop State :=
  andThen (addressField trk k) (andThen (repeated addrGapSyncs syncBody) (andThen (dataField f k) (sectorGap k)))

/-- The body of TE_ENCODE: zero TBUF, rewind, leader, sixteen sectors, then BITCNT and TRKFMT (R160). -/
def trackBody (trk : Byte) (f : Interleave) (s : State) : Except Stop State :=
  andThen (repeated leaderSyncs syncBody)
    (andThen (forEach (sectorBody trk f) (List.range sectors)) (fun t => .ok (t.setTrack trk f)))
    ((clearTbuf s).setBidx 0)

/-- TE_ENCODE, R160. -/
def execTeEncode (trk : Byte) (f : Interleave) (s : State) : Host.Outcome State Fault Refusal :=
  complete (.teEncode trk f) s (trackBody trk f s)

end Sys2Proof.Machine
end

