-- ==== Sys2Proof/Machine/Dispatch.lean ====
section
/-! DEFINITION. The meaning of every command, one arm per row of the opcode map (spec/30_encoding.md R74). -/

namespace Sys2Proof.Machine

/-- Executes one decoded command. The FAULT check of R75 comes before decoding, in `issueCommand` (log 14). -/
def exec (i : Instr) (s : State) : Host.Outcome State Fault Refusal :=
  match i with
  | .nop => Sys2Proof.Machine.execNop s
  | .crcInit => Sys2Proof.Machine.execCrcInit s
  | .crcByte imm8 => Sys2Proof.Machine.execCrcByte imm8 s
  | .crcTbuf a b => Sys2Proof.Machine.execCrcTbuf a b s
  | .crcPbuf a b => Sys2Proof.Machine.execCrcPbuf a b s
  | .bwSetidx imm26 => Sys2Proof.Machine.execBwSetidx imm26 s
  | .bwByte imm8 => Sys2Proof.Machine.execBwByte imm8 s
  | .bw4and4 imm8 => Sys2Proof.Machine.execBw4and4 imm8 s
  | .bwSync => Sys2Proof.Machine.execBwSync s
  | .bwClear => Sys2Proof.Machine.execBwClear s
  | .seEncode l => Sys2Proof.Machine.execSeEncode l s
  | .seEmit => Sys2Proof.Machine.execSeEmit s
  | .teEncode trk f => Sys2Proof.Machine.execTeEncode trk f s

end Sys2Proof.Machine
end

