-- ==== Sys2Proof/Machine/Window.lean ====
section
/-! DEFINITION. The host's side: the address window and its accesses (spec/20_memory.md R51, R52, R54), issuing a command by a write
to CMD (spec/10_state.md R31, spec/30_encoding.md R75), and one host interaction (spec/60_exceptions.md R217). -/

namespace Sys2Proof.Machine

/-- What one window address holds (R51). -/
inductive Location where
  | ram (sp : Space) (i : Nat)
  | register (r : Reg)
  /-- A byte of the register area that is not a multiple of 4. -/
  | insideRegister
  | unmapped
deriving DecidableEq, Repr

/-- The register at a word offset of the register area (R23). -/
def registerAt : Nat → Location
  | 0 => .register .cmd
  | 1 => .register .status
  | 2 => .register .faultcmd
  | 3 => .register .crcAcc
  | 4 => .register .crcOut
  | 5 => .register .bidx
  | 6 => .register .bitcnt
  | 7 => .register .trkfmt
  | 8 => .register .config
  | _ => .unmapped

/-- The address map of R51. -/
def locate (a : Nat) : Location :=
  if a < 0x1000 then .ram .pbuf a
  else if a < 0x2000 then .unmapped
  else if a < 0x3A00 then .ram .tbuf (a - 0x2000)
  else if a < 0x4000 then .unmapped
  else if a < 0x4157 then .ram .ebuf (a - 0x4000)
  else if a < 0x5000 then .unmapped
  else if a < 0x5024 then (if a % 4 = 0 then registerAt ((a - 0x5000) / 4) else .insideRegister)
  else .unmapped

/-- What an access reaches under the host contract (R52). -/
inductive Access where
  | ramByte (sp : Space) (i : Nat)
  | register (r : Reg)
  | unmapped
  | noMove
deriving DecidableEq, Repr

/-- R52: an 8-bit access to a RAM byte, a 32-bit access to a register, an access of any width to unmapped addresses (all the bytes
it covers, log 10); nothing else has a move. -/
def resolve (w : Width) (addr : BitVec 16) : Access :=
  match w, locate addr.toNat with
  | .w8, .ram sp i => .ramByte sp i
  | .w32, .register r => .register r
  | _, _ =>
    if (List.range w.bytes).all (fun k => locate (addr.toNat + k) == .unmapped) then .unmapped else .noMove

/-- The next unspecified value (D29, log 4). -/
def drawn (s : State) : Word := Config.unspecified s.draws

/-- The value a register reads (R23 to R30). CMD is write-only: a read of it is a draw (R31). -/
def readReg (r : Reg) (s : State) : Word :=
  match r with
  | .cmd => drawn s
  | .status => s.status
  | .faultcmd => s.faultcmd
  | .crcAcc => s.crcAcc
  | .crcOut => crcOut s.crcAcc
  | .bidx => s.bidx
  | .bitcnt => s.bitcnt
  | .trkfmt => s.trkfmt
  | .config => configWord s.chainMode

/-- Byte k of a register word on a narrower bus: bits [8k+7:8k] (R54). R52 gives the host no such access (log 20). -/
def registerLane (w : Word) (k : Nat) : Byte := w.extractLsb' (8 * k) 8

/-- An unspecified value of an access's width (D29). -/
def drawnValue (w : Width) (s : State) : HostValue :=
  match w with
  | .w8 => .byte ((drawn s).setWidth 8)
  | .w16 => .half ((drawn s).setWidth 16)
  | .w32 => .word (drawn s)

/-- A host read (R52). Reads have no side effect on the engine (R59) and go on while FAULT = 1 (R205); a draw is counted. -/
def hostRead (w : Width) (addr : BitVec 16) (s : State) : Host.Outcome State Fault Refusal :=
  match resolve w addr with
  | .ramByte sp i =>
    match Memory.read (s.mem sp) i with
    | some v => .next (s.logRead (.byte v))
    | none => .fault (.undefRead sp i)
  | .register .cmd => .next ((s.logRead (.word (readReg .cmd s))).countDraw)
  | .register r => .next (s.logRead (.word (readReg r s)))
  | .unmapped => .next ((s.logRead (drawnValue w s)).countDraw)
  | .noMove => .refused (.noMove (.read w addr))

/-- An 8-bit host write (R52): stored in PBUF and TBUF; no effect on EBUF or an unmapped address. -/
def hostWrite8 (addr : BitVec 16) (v : Byte) (s : State) : Host.Outcome State Fault Refusal :=
  match resolve .w8 addr with
  | .ramByte .ebuf _ => .next s
  | .ramByte sp i => .next (memWrite sp i v s)
  | .register _ => .refused (.noMove (.write8 addr v))
  | .unmapped => .next s
  | .noMove => .refused (.noMove (.write8 addr v))

/-- A 16-bit host write (R52): only an access to unmapped addresses has a move, and no effect. -/
def hostWrite16 (addr : BitVec 16) (v : BitVec 16) (s : State) : Host.Outcome State Fault Refusal :=
  match resolve .w16 addr with
  | .unmapped => .next s
  | _ => .refused (.noMove (.write16 addr v))

/-- Issues command word w (R75): ignored while FAULT = 1 (R204), ILLEGAL_CMD if it decodes to no command, else executed. -/
def issueCommand (w : Word) (s : State) : Host.Outcome State Fault Refusal :=
  if faultFlag s then .next s
  else
    match decode w with
    | .error _ => .next (enterFault .illegalCmd w s)
    | .ok i => exec i s

/-- A 32-bit host write (R52): to CMD it issues the command; to any other register or an unmapped address it has no effect. -/
def hostWrite32 (addr : BitVec 16) (v : Word) (s : State) : Host.Outcome State Fault Refusal :=
  match resolve .w32 addr with
  | .register .cmd => issueCommand v s
  | .register _ => .next s
  | .ramByte _ _ => .refused (.noMove (.write32 addr v))
  | .unmapped => .next s
  | .noMove => .refused (.noMove (.write32 addr v))

/-- One interaction of the host with the engine (R217). -/
def hostStep (act : HostAction) (s : State) : Host.Outcome State Fault Refusal :=
  match act with
  | .read w addr => hostRead w addr s
  | .write8 addr v => hostWrite8 addr v s
  | .write16 addr v => hostWrite16 addr v s
  | .write32 addr v => hostWrite32 addr v s
  | .reset => .next (resetEngine s)

/-- The window address of CMD (R23). -/
def cmdAddr : BitVec 16 := 0x5000#16

/-- Takes the next host interaction off the pending list: the interaction, and the state without it. -/
def nextAction (s : State) : Option (HostAction × State) :=
  match s.pending with
  | [] => none
  | act :: rest => some (act, { s with pending := rest })

/-- The state with a host interaction put before the pending ones. -/
def State.pushAction (s : State) (act : HostAction) : State := { s with pending := act :: s.pending }

/-- One step of the machine: the next host interaction, performed whole (R21, R59). With none pending the engine does nothing (R20,
R216; log 2). -/
def engineStep (s : State) : Host.Outcome State Fault Refusal :=
  match nextAction s with
  | none => .next s
  | some (act, rest) => hostStep act rest

end Sys2Proof.Machine
end

