-- ==== Sys2Proof/Machine/Step.lean ====
section
/-! DEFINITION. The step function: one host interaction a step (spec/10_state.md R21). -/

namespace Sys2Proof.Machine

/-- One step of the machine. -/
def step (s : State) : Host.Outcome State Fault Refusal := engineStep s

/-- The state whose next host interaction writes the word to CMD: the low `nbits` bits of `w`, zero above (R31). The engine fetches
nothing (R20, R65); a command comes from the host, so this stands for the host's write (log 1). -/
def State.withFetchWord (s : State) (nbits w : Nat) : State :=
  s.pushAction (.write32 cmdAddr (BitVec.ofNat 32 (w % 2 ^ nbits)))

end Sys2Proof.Machine
end

