-- ==== Sys2Proof/Machine/Assembler.lean ====
section
/-! DEFINITION. Assembler text (spec/30_encoding.md R77, R78): one line of a program as the host interactions it stands for. What the
spec leaves open of the text (blanks, letter case, the operands of pseudo-instructions) is log 18. -/

namespace Sys2Proof.Machine

/-- The interaction that issues a command (R31). -/
def commandAction (i : Instr) : HostAction := .write32 cmdAddr (encode i)

/-- The mnemonic's spelling (R74). -/
def Mnemonic.text : Mnemonic → String
  | .nop => "NOP"
  | .crcInit => "CRC_INIT"
  | .crcByte => "CRC_BYTE"
  | .crcTbuf => "CRC_TBUF"
  | .crcPbuf => "CRC_PBUF"
  | .bwSetidx => "BW_SETIDX"
  | .bwByte => "BW_BYTE"
  | .bw4and4 => "BW_4AND4"
  | .bwSync => "BW_SYNC"
  | .bwClear => "BW_CLEAR"
  | .seEncode => "SE_ENCODE"
  | .seEmit => "SE_EMIT"
  | .teEncode => "TE_ENCODE"

/-- The mnemonic a name spells (R74). -/
def mnemonicNamed (name : List Char) : Option Mnemonic :=
  (opcodeMap.map (·.mnemonic)).find? (fun m => (Mnemonic.text m).toList == name)

/-- A blank of assembler text. -/
def isBlank (c : Char) : Bool := c == ' ' || c == '\t'

/-- A field without the blanks around it. -/
def trimmed (cs : List Char) : List Char := ((cs.dropWhile isBlank).reverse.dropWhile isBlank).reverse

/-- The fields between commas (R77). -/
def splitCommas : List Char → List (List Char)
  | [] => [[]]
  | c :: cs =>
    if c == ',' then [] :: splitCommas cs
    else
      match splitCommas cs with
      | [] => [[c]]
      | field :: fields => (c :: field) :: fields

/-- The value of one digit in a base. -/
def digitValue (base : Nat) (c : Char) : Option Nat :=
  let n := c.toNat
  let v :=
    if 48 ≤ n ∧ n ≤ 57 then n - 48
    else if 65 ≤ n ∧ n ≤ 70 then n - 55
    else if 97 ≤ n ∧ n ≤ 102 then n - 87
    else 16
  if v < base then some v else none

/-- A nonempty run of digits, most significant first. -/
def digitsValue (base : Nat) : (acc : Nat) → List Char → Option Nat
  | _, [] => none
  | acc, [c] => (digitValue base c).map (acc * base + ·)
  | acc, c :: cs =>
    match digitValue base c with
    | none => none
    | some v => digitsValue base (acc * base + v) cs

/-- A number: decimal, or hexadecimal after 0x (R77). -/
def numberValue (cs : List Char) : Option Nat :=
  match cs with
  | '0' :: 'x' :: ds => digitsValue 16 0 ds
  | ds => digitsValue 10 0 ds

/-- The format operand of TE_ENCODE: "the format written 0/primary or 1/alternate" (R77). -/
def formatValue (cs : List Char) : Option Nat :=
  if cs == "primary".toList then some 0
  else if cs == "alternate".toList then some 1
  else numberValue cs

/-- The operand numbers of a command line (R77). -/
def operandValues (m : Mnemonic) (fields : List (List Char)) : Option (List Nat) :=
  match m, fields with
  | .teEncode, [trk, f] =>
    match numberValue trk, formatValue f with
    | some a, some b => some [a, b]
    | _, _ => none
  | _, fields => fields.mapM numberValue

/-- A pseudo-instruction by name and operands (R78); operands must fit the fields of its expansion. -/
def pseudoNamed (name : List Char) (operands : List Nat) : Option Pseudo :=
  match operands with
  | [] =>
    if name == "BW_REWIND".toList then some .bwRewind
    else if name == "BW_FRESH".toList then some .bwFresh
    else none
  | [n] =>
    if name == "WRITE_SYNCS".toList then some (.writeSyncs n)
    else if name == "SECTOR".toList && decide (n < 2 ^ 4) then some (.sector (BitVec.ofNat 4 n))
    else none
  | [a, n] =>
    if decide (a < 2 ^ 13) && decide (n < 2 ^ 13) then
      if name == "CRC32_TBUF".toList then some (.crc32Tbuf (BitVec.ofNat 13 a) (BitVec.ofNat 13 n))
      else if name == "CRC32_PBUF".toList then some (.crc32Pbuf (BitVec.ofNat 13 a) (BitVec.ofNat 13 n))
      else none
    else none
  | _ => none

/-- A host access or RESET by name and operands (R77). -/
def hostNamed (name : List Char) (operands : List Nat) : Option HostAction :=
  match operands with
  | [] => if name == "RESET".toList then some .reset else none
  | [a] =>
    if decide (a < 2 ^ 16) then
      if name == "RD8".toList then some (.read .w8 (BitVec.ofNat 16 a))
      else if name == "RD32".toList then some (.read .w32 (BitVec.ofNat 16 a))
      else none
    else none
  | [a, v] =>
    if name == "WR8".toList && decide (a < 2 ^ 16) && decide (v < 2 ^ 8) then
      some (.write8 (BitVec.ofNat 16 a) (BitVec.ofNat 8 v))
    else none
  | _ => none

/-- The operand fields after a name: none for a blank rest, else the trimmed fields between commas (R77). -/
def operandFields (rest : List Char) : List (List Char) :=
  if (trimmed rest).isEmpty then [] else (splitCommas rest).map trimmed

/-- What a name with its operand fields stands for: a command, a pseudo-instruction or a host action (R77, R78). -/
def namedActions (name : List Char) (fields : List (List Char)) : Option (List HostAction) :=
  match mnemonicNamed name with
  | some m =>
    match operandValues m fields with
    | some operands => (assemble ⟨m, operands⟩).map (fun i => [commandAction i])
    | none => none
  | none =>
    match fields.mapM numberValue with
    | none => none
    | some operands =>
      match pseudoNamed name operands with
      | some p => some ((expandPseudo p).map commandAction)
      | none => (hostNamed name operands).map (fun act => [act])

/-- One line of assembler text: the interactions it stands for, none where the assembler refuses it. `;` starts a comment (R77). -/
def assembleLine (line : String) : Option (List HostAction) :=
  let code := trimmed (line.toList.takeWhile (fun c => c != ';'))
  if code.isEmpty then some []
  else namedActions (code.takeWhile (fun c => !isBlank c)) (operandFields (code.dropWhile (fun c => !isBlank c)))

end Sys2Proof.Machine
end

