-- ==== Sys2Proof/Safety.lean ====
section
/-! DEFINITION. What counts as a safe state and a safe run, and the terms the claims use: bit fields of the track, which state a
command may write, the invariant of the machine, and the command sequence of spec/43_track_encoder.md R166. -/

namespace Sys2Proof.Machine

/-! ### Safe states and runs -/

/-- No fault is recorded (spec/10_state.md R29, spec/60_exceptions.md R204). -/
def FaultFree (s : State) : Prop := faultFlag s = false

/-- A run of `n` host interactions is safe when it has a result (spec/60_exceptions.md R218) and no fault is recorded in it. -/
def SafeRun (n : Nat) (s : State) : Prop := ∃ t, Sys2Proof.core.run n s = .next t ∧ FaultFree t

/-- The n bytes of a RAM from address lo on are defined (R37). -/
def Defined (s : State) (sp : Space) (lo n : Nat) : Prop :=
  ∀ a, lo ≤ a → a < lo + n → (Memory.read (s.mem sp) a).isSome = true

/-- The n bytes of a RAM from address lo on hold the bytes p. -/
def Holds (s : State) (sp : Space) (lo : Nat) (p : List Byte) : Prop :=
  ∀ j, j < p.length → Memory.read (s.mem sp) (lo + j) = p[j]?

/-! ### Command lines (spec/30_encoding.md R73, R77) -/

/-- The line that writes a command: its mnemonic, and its operands as numbers in the order of its format (R77). -/
def sourceOf : Instr → Source
  | .nop => ⟨.nop, []⟩
  | .crcInit => ⟨.crcInit, []⟩
  | .crcByte v => ⟨.crcByte, [v.toNat]⟩
  | .crcTbuf a b => ⟨.crcTbuf, [a.toNat, b.toNat]⟩
  | .crcPbuf a b => ⟨.crcPbuf, [a.toNat, b.toNat]⟩
  | .bwSetidx i => ⟨.bwSetidx, [i.toNat]⟩
  | .bwByte v => ⟨.bwByte, [v.toNat]⟩
  | .bw4and4 v => ⟨.bw4and4, [v.toNat]⟩
  | .bwSync => ⟨.bwSync, []⟩
  | .bwClear => ⟨.bwClear, []⟩
  | .seEncode l => ⟨.seEncode, [l.toNat]⟩
  | .seEmit => ⟨.seEmit, []⟩
  | .teEncode trk .primary => ⟨.teEncode, [trk.toNat, 0]⟩
  | .teEncode trk .alternate => ⟨.teEncode, [trk.toNat, 1]⟩

/-- The operand fields of a word, as the table of R73 places them for each format, in the order of R77. -/
def wordOperands (w : Word) : Format → List Nat
  | .z => []
  | .i8 => [(w.extractLsb' 0 8).toNat]
  | .r => [(w.extractLsb' 13 13).toNat, (w.extractLsb' 0 13).toNat]
  | .x26 => [(w.extractLsb' 0 26).toNat]
  | .s => [(w.extractLsb' 0 4).toNat]
  | .t => [(w.extractLsb' 0 8).toNat, (w.extractLsb' 8 1).toNat]

/-! ### The bitstream (spec/20_memory.md R55, R56) -/

/-- The bytes stand in TBUF from bit index k on, most significant bit first. -/
def BytesAt (m : Memory) (k : Nat) (bytes : List Byte) : Prop :=
  ∀ i (h : i < bytes.length) (j : Nat), j < 8 → Memory.bit m (k + 8 * i + j) = some (bytes[i].getLsbD (7 - j))

/-- n sync words stand in TBUF from bit index k on: each 0xFF and two zero bits (spec/41_bit_writer.md R127). -/
def SyncsAt (m : Memory) (k n : Nat) : Prop :=
  ∀ i, i < n → BytesAt m (k + 10 * i) [0xFF#8] ∧
    Memory.bit m (k + 10 * i + 8) = some false ∧ Memory.bit m (k + 10 * i + 9) = some false

/-- The two bytes of the 4-and-4 form (spec/41_bit_writer.md R124). -/
def fourAndFour (v : Byte) : List Byte := [(v >>> 1) ||| 0xAA#8, v ||| 0xAA#8]

/-- The first bit of physical sector s: `b(s) = 640 + 3134 · s` (spec/43_track_encoder.md R163). -/
def sectorStart (k : Nat) : Nat := 640 + 3134 * k

/-! ### The CRC one bit at a time (spec/10_state.md R32) -/

/-- One round of the loop that generates CRCT. -/
def crcBitStep (c : Word) : Word := if c.getLsbD 0 then 0xEDB88320#32 ^^^ (c >>> 1) else c >>> 1

/-! ### Which state each command may write (spec/10_state.md R23 to R27, spec/20_memory.md R50) -/

/-- The commands that write CRC_ACC (R23, R24). -/
def writesCrcAcc : Instr → Bool
  | .crcInit | .crcByte _ | .crcTbuf _ _ | .crcPbuf _ _ => true
  | .nop | .bwSetidx _ | .bwByte _ | .bw4and4 _ | .bwSync | .bwClear | .seEncode _ | .seEmit | .teEncode _ _ => false

/-- The commands that write BIDX (R23, R25). -/
def writesBidx : Instr → Bool
  | .bwSetidx _ | .bwByte _ | .bw4and4 _ | .bwSync | .seEmit | .teEncode _ _ => true
  | .nop | .crcInit | .crcByte _ | .crcTbuf _ _ | .crcPbuf _ _ | .bwClear | .seEncode _ => false

/-- The commands that write BITCNT and TRKFMT (R23, R26, R27). -/
def writesTrack : Instr → Bool
  | .teEncode _ _ => true
  | .nop | .crcInit | .crcByte _ | .crcTbuf _ _ | .crcPbuf _ _ | .bwSetidx _ | .bwByte _ | .bw4and4 _ | .bwSync | .bwClear
  | .seEncode _ | .seEmit => false

/-- The commands that write TBUF (R50). -/
def writesTbuf : Instr → Bool
  | .bwByte _ | .bw4and4 _ | .bwSync | .bwClear | .seEmit | .teEncode _ _ => true
  | .nop | .crcInit | .crcByte _ | .crcTbuf _ _ | .crcPbuf _ _ | .bwSetidx _ | .seEncode _ => false

/-- The commands that may clear a TBUF bit: they store zeros (R53, R128, R160). -/
def clearsTbuf : Instr → Bool
  | .bwClear | .teEncode _ _ => true
  | .nop | .crcInit | .crcByte _ | .crcTbuf _ _ | .crcPbuf _ _ | .bwSetidx _ | .bwByte _ | .bw4and4 _ | .bwSync
  | .seEncode _ | .seEmit => false

/-- The commands that write EBUF (R50). -/
def writesEbuf : Instr → Bool
  | .seEncode _ | .teEncode _ _ => true
  | .nop | .crcInit | .crcByte _ | .crcTbuf _ _ | .crcPbuf _ _ | .bwSetidx _ | .bwByte _ | .bw4and4 _ | .bwSync | .bwClear
  | .seEmit => false

/-- The bits a command checks capacity for (spec/41_bit_writer.md R121); none for the commands that do not write at BIDX, and none
for TE_ENCODE, whose checks never fire (R164). -/
def capacityBits : Instr → Option Nat
  | .bwByte _ => some 8
  | .bw4and4 _ => some 16
  | .bwSync => some 10
  | .seEmit => some 2744
  | .nop | .crcInit | .crcByte _ | .crcTbuf _ _ | .crcPbuf _ _ | .bwSetidx _ | .bwClear | .seEncode _ | .teEncode _ _ => none

/-- The RAM and the byte range a command checks (spec/40_crc.md R102). -/
def checkedRange : Instr → Option (Space × Nat × Nat)
  | .crcTbuf a b => some (.tbuf, a.toNat, b.toNat)
  | .crcPbuf a b => some (.pbuf, a.toNat, b.toNat)
  | .nop | .crcInit | .crcByte _ | .bwSetidx _ | .bwByte _ | .bw4and4 _ | .bwSync | .bwClear | .seEncode _ | .seEmit
  | .teEncode _ _ => none

/-- The RAM whose undefined bytes a command can meet (spec/60_exceptions.md R202). -/
def undefSpace : Instr → Option Space
  | .crcTbuf _ _ => some .tbuf
  | .crcPbuf _ _ | .seEncode _ | .teEncode _ _ => some .pbuf
  | .seEmit => some .ebuf
  | .nop | .crcInit | .crcByte _ | .bwSetidx _ | .bwByte _ | .bw4and4 _ | .bwSync | .bwClear => none

/-! ### The invariant of the machine -/

/-- What holds of every state a run reaches. -/
structure Inv (s : State) : Prop where
  /-- Each RAM keeps its canonical form, inside its size (R50). -/
  pbuf_wf : Memory.wf 4096 s.pbuf = true
  tbuf_wf : Memory.wf 6656 s.tbuf = true
  ebuf_wf : Memory.wf 343 s.ebuf = true
  /-- EBUF is wholly undefined or holds 343 entries of GCR62 (R36, R146). -/
  ebuf_encoded : s.ebuf = [] ∨ ∀ i, i < 343 → ∃ v ∈ gcr62Table, Memory.read s.ebuf i = some v
  /-- STATUS is 0 or one of the three fault words, so its reserved bits read 0 (R29, R201, R203). -/
  status_legal : s.status = 0x000#32 ∨ s.status = 0x101#32 ∨ s.status = 0x201#32 ∨ s.status = 0x301#32
  /-- "While FAULT = 0 it holds 0" (R30). -/
  faultcmd_zero : s.status = 0x000#32 → s.faultcmd = 0#32
  /-- FAULTCMD is an illegal word exactly for ILLEGAL_CMD (R201). -/
  faultcmd_illegal : s.status = 0x101#32 → wordLegal s.faultcmd = false
  faultcmd_legal : s.status = 0x201#32 ∨ s.status = 0x301#32 → wordLegal s.faultcmd = true
  /-- The cursor stays in BW_SETIDX's range (R25, R129). -/
  bidx_bound : s.bidx.toNat < 2 ^ 26
  /-- BITCNT is 0 or the bit count of every track (R26, R164). -/
  bitcnt_legal : s.bitcnt = 0#32 ∨ s.bitcnt = 50632#32
  /-- TRKFMT's reserved bits read 0, and it is 0 until a TE_ENCODE completes (R27). -/
  trkfmt_reserved : s.trkfmt.toNat < 512
  trkfmt_zero : s.bitcnt = 0#32 → s.trkfmt = 0#32

/-! ### The command sequence of R166 -/

/-- The commands for one physical sector (R166). -/
def sectorProgram (trk : Byte) (f : Interleave) (k : Nat) : List Instr :=
  [.bwByte 0xD5#8, .bwByte 0xAA#8, .bwByte 0x96#8, .bw4and4 254#8, .bw4and4 trk, .bw4and4 (BitVec.ofNat 8 k),
    .bw4and4 (254#8 ^^^ trk ^^^ BitVec.ofNat 8 k), .bwByte 0xDE#8, .bwByte 0xAA#8, .bwByte 0xEB#8] ++
  List.replicate 7 .bwSync ++
  [.bwByte 0xD5#8, .bwByte 0xAA#8, .bwByte 0xAD#8, .seEncode (BitVec.ofNat 4 (logicalSector k f)), .seEmit,
    .bwByte 0xDE#8, .bwByte 0xAA#8, .bwByte 0xEB#8] ++
  (if k = 15 then [.bwByte 0xFF#8] else List.replicate 16 .bwSync)

/-- The command sequence R166 gives for a whole track. -/
def trackProgram (trk : Byte) (f : Interleave) : List Instr :=
  [.bwClear, .bwSetidx 0#26] ++ List.replicate 64 .bwSync ++ (List.range 16).flatMap (sectorProgram trk f)

end Sys2Proof.Machine
end

