-- ==== Sys2Proof/Certificates/Slice0/Obligations.lean ====
section
/-! DEFINITION. The statements about the engine, each from the numbered rules of spec/ its docstring names. -/

open Sys2Proof Sys2Proof.Machine

/-! ### Encoding (spec/30_encoding.md) -/

/-- R72 to R74: every command's word decodes to that command, with every operand at every value. -/
def Obligations.DecodeInvertsEncode : Prop := ∀ i : Instr, decode (encode i) = .ok i

/-- R72 to R75: a word that decodes has no other spelling, so the word of a faulting command is `encode` of it. -/
def Obligations.EncodeInvertsDecode : Prop := ∀ (w : Word) (i : Instr), decode w = .ok i → encode i = w

/-- R74, R76: the decoder accepts exactly the words that select a row of the opcode map by its mask and match. -/
def Obligations.DecodeAcceptsExactlyLegalWords : Prop := ∀ w : Word, (∃ i, decode w = .ok i) ↔ wordLegal w = true

/-- R79: the encoding examples, read by the decoder. -/
def Obligations.DecodedWordExamples : Prop :=
  decode 0x04000000#32 = .ok .crcInit ∧ decode 0x08000031#32 = .ok (.crcByte 0x31#8) ∧
  decode 0x0C0018B9#32 = .ok (.crcTbuf 0#13 6329#13) ∧ decode 0x0C0C8157#32 = .ok (.crcTbuf 100#13 343#13) ∧
  decode 0x10200100#32 = .ok (.crcPbuf 256#13 256#13) ∧ decode 0x20000003#32 = .ok (.bwSetidx 3#26) ∧
  decode 0x2000CFF9#32 = .ok (.bwSetidx 53241#26) ∧ decode 0x240000D5#32 = .ok (.bwByte 0xD5#8) ∧
  decode 0x280000FE#32 = .ok (.bw4and4 254#8) ∧ decode 0x2C000000#32 = .ok .bwSync ∧
  decode 0x30000000#32 = .ok .bwClear ∧ decode 0x40000001#32 = .ok (.seEncode 1#4) ∧
  decode 0x44000000#32 = .ok .seEmit ∧ decode 0x60000000#32 = .ok (.teEncode 0#8 .primary) ∧
  decode 0x60000111#32 = .ok (.teEncode 17#8 .alternate)

/-- R77: the assembler accepts a command line exactly when its operands fit their fields. The command it then gives is the one the
line writes, with the line's operands, and its word is legal, selects the row of the line's mnemonic and no other, and holds the
line's operands in the fields of R73. -/
def Obligations.AssemblerRefusesOperandsThatDoNotFit : Prop :=
  ∀ line : Source, ((assemble line).isSome = line.wellFormed) ∧
    ∀ i, assemble line = some i →
      line = sourceOf i ∧ wordLegal (encode i) = true ∧
      (∀ row ∈ opcodeMap, row.selects (encode i) = true ↔ row.mnemonic = line.mnemonic) ∧
      wordOperands (encode i) line.mnemonic.format = line.operands

/-! ### Issuing a command, faults and reset (spec/60_exceptions.md, spec/70_reset_and_hazards.md) -/

/-- R31, R75: when the next host interaction writes a word to CMD, no fault is recorded and the word decodes to i, the step is
`exec i` on the state with that interaction taken off the pending ones. -/
def Obligations.StepRunsDecodedInstruction : Prop :=
  ∀ (s : State) (w : Word) (rest : List HostAction) (i : Instr),
    s.pending = .write32 0x5000#16 w :: rest → faultFlag s = false → decode w = .ok i →
    step s = exec i { s with pending := rest }

/-- R75: a write to CMD is ignored while FAULT = 1; otherwise an illegal word (R74's masks) raises ILLEGAL_CMD before anything
changes, and the word of a command runs that command. -/
def Obligations.CmdWriteFollowsTheDecodingRule : Prop :=
  ∀ (s : State) (w : Word) (rest : List HostAction), s.pending = .write32 0x5000#16 w :: rest →
    (faultFlag s = true → step s = .next { s with pending := rest }) ∧
    (faultFlag s = false → wordLegal w = false →
      step s = .next { s with pending := rest, status := 0x101#32, faultcmd := w }) ∧
    (faultFlag s = false → wordLegal w = true →
      ∃ i, encode i = w ∧ step s = exec i { s with pending := rest })

/-- R204: while FAULT = 1 a command changes nothing, and no step but the host's reset changes STATUS, FAULTCMD, any other
register or EBUF. -/
def Obligations.FaultIsStickyUntilReset : Prop :=
  (∀ (s : State) (w : Word) (rest : List HostAction), faultFlag s = true → s.pending = .write32 0x5000#16 w :: rest →
    step s = .next { s with pending := rest }) ∧
  (∀ s t : State, faultFlag s = true → (∀ rest, s.pending ≠ .reset :: rest) → step s = .next t →
    t.status = s.status ∧ t.faultcmd = s.faultcmd ∧ t.crcAcc = s.crcAcc ∧ t.bidx = s.bidx ∧ t.bitcnt = s.bitcnt ∧
      t.trkfmt = s.trkfmt ∧ ∀ a, Memory.read t.ebuf a = Memory.read s.ebuf a) ∧
  (∀ (s : State) (rest : List HostAction), s.pending = .reset :: rest → ∃ t, step s = .next t ∧ faultFlag t = false)

/-- R203: a command that changes STATUS or FAULTCMD changes nothing else: STATUS becomes `(c << 8) | 1` and FAULTCMD the command's
word. -/
def Obligations.CommandFaultsArePrecise : Prop :=
  ∀ (i : Instr) (s t : State), exec i s = .next t →
    (t.status = s.status ∧ t.faultcmd = s.faultcmd) ∨
    (∃ c : Word, (c = 2#32 ∨ c = 3#32) ∧ t = { s with status := (c <<< 8) ||| 1#32, faultcmd := encode i })

/-- R202: which commands can raise CAPACITY, RANGE and UNDEF_READ; no command is refused. -/
def Obligations.FaultsEachCommandCanRaise : Prop :=
  (∀ (i : Instr) (s t : State), s.status = 0#32 → exec i s = .next t →
    t.status = 0#32 ∨ (t.status = 0x201#32 ∧ (capacityBits i).isSome = true) ∨
      (t.status = 0x301#32 ∧ (checkedRange i).isSome = true)) ∧
  (∀ (i : Instr) (s : State) (x : Fault), exec i s = .fault x →
    ∃ sp a, undefSpace i = some sp ∧ x = .undefRead sp a ∧ a < sp.size ∧ Memory.read (s.mem sp) a = none) ∧
  (∀ (i : Instr) (s : State) (x : Refusal), exec i s ≠ .refused x)

/-- R39, R230: the values after power-on, and that a reset by the host gives them again and leaves CONFIG and what the model keeps
for the host (log 13) as they were. -/
def Obligations.ResetLeavesTheResetValues : Prop :=
  (State.reset.crcAcc = 0xFFFFFFFF#32 ∧ readReg .crcOut State.reset = 0#32 ∧ State.reset.bidx = 0#32 ∧
    State.reset.bitcnt = 0#32 ∧ State.reset.trkfmt = 0#32 ∧ State.reset.status = 0#32 ∧ State.reset.faultcmd = 0#32 ∧
    ∀ sp a, Memory.read (State.reset.mem sp) a = none) ∧
  ∀ (s : State) (rest : List HostAction), s.pending = .reset :: rest →
    step s = .next { State.reset with
      chainMode := s.chainMode, pending := rest, draws := s.draws, readLog := s.readLog }

/-! ### The CRC32 engine (spec/40_crc.md) -/

/-- The default CRCT (log 7) is the table of the reflected polynomial 0xEDB88320, as spec/10_state.md generates it. -/
def Obligations.CrcTableIsGenerated : Prop :=
  crctTable.length = 256 ∧ ∀ n, n < 256 → crct n = crcBitStep^[8] (BitVec.ofNat 32 n)

/-- One CRC step is eight rounds of division by the reflected polynomial on the accumulator with the byte in its low bits; it rests
on the default CRCT (log 7). -/
def Obligations.CrcStepDividesByThePolynomial : Prop :=
  ∀ (acc : Word) (b : Byte), crcStep acc b = crcBitStep^[8] (acc ^^^ b.setWidth 32)

/-- R100, R101, R120, R180: NOP, CRC_INIT, CRC_BYTE and BW_SETIDX run on every state; the first changes nothing, the others one
register, and no byte of any RAM. -/
def Obligations.RegisterCommandsComplete : Prop :=
  ∀ s : State,
    exec .nop s = .next s ∧
    exec .crcInit s = .next { s with crcAcc := 0xFFFFFFFF#32 } ∧
    (∀ b : Byte, exec (.crcByte b) s =
      .next { s with crcAcc := crct ((s.crcAcc ^^^ b.setWidth 32) &&& 0xFF#32).toNat ^^^ (s.crcAcc >>> 8) }) ∧
    (∀ i : BitVec 26, exec (.bwSetidx i) s = .next { s with bidx := i.setWidth 32 })

/-- R103, R104: a range command inside its RAM over defined bytes absorbs them in rising order into CRC_ACC and changes nothing
else; a length of 0 reads nothing. -/
def Obligations.CrcRangeAbsorbsItsBytes : Prop :=
  ∀ (s : State) (a b : BitVec 13) (p : List Byte), p.length = b.toNat →
    (a.toNat + b.toNat ≤ 6656 → Holds s .tbuf a.toNat p →
      exec (.crcTbuf a b) s = .next { s with crcAcc := p.foldl crcStep s.crcAcc }) ∧
    (a.toNat + b.toNat ≤ 4096 → Holds s .pbuf a.toNat p →
      exec (.crcPbuf a b) s = .next { s with crcAcc := p.foldl crcStep s.crcAcc })

/-- R102: a range command raises RANGE exactly when A + B exceeds its RAM, and then changes STATUS and FAULTCMD alone. -/
def Obligations.RangeIsCheckedBeforeAnyAccess : Prop :=
  ∀ (i : Instr) (sp : Space) (a b : Nat) (s : State), checkedRange i = some (sp, a, b) →
    (a + b > sp.size → exec i s = .next { s with status := 0x301#32, faultcmd := encode i }) ∧
    (a + b ≤ sp.size → ∀ t, exec i s = .next t → t.status = s.status ∧ t.faultcmd = s.faultcmd)

/-- R206, R207: a range command inside its RAM stops with UNDEF_READ at the first undefined byte of its range. -/
def Obligations.CrcRangeStopsAtTheFirstUndefinedByte : Prop :=
  ∀ (i : Instr) (sp : Space) (a b k : Nat) (s : State), checkedRange i = some (sp, a, b) → a + b ≤ sp.size → k < b →
    Memory.read (s.mem sp) (a + k) = none → Defined s sp a k → exec i s = .fault (.undefRead sp (a + k))

/-- R103, R105: consecutive range commands over TBUF chain into the checksum of the joined range, and so over PBUF. -/
def Obligations.CrcRangesChain : Prop :=
  ∀ (s t u : State) (a n m : Nat), a + n + m ≤ 6656 →
    (exec (.crcTbuf (BitVec.ofNat 13 a) (BitVec.ofNat 13 n)) s = .next t →
      exec (.crcTbuf (BitVec.ofNat 13 (a + n)) (BitVec.ofNat 13 m)) t = .next u →
      exec (.crcTbuf (BitVec.ofNat 13 a) (BitVec.ofNat 13 (n + m))) s = .next u) ∧
    (a + n + m ≤ 4096 → exec (.crcPbuf (BitVec.ofNat 13 a) (BitVec.ofNat 13 n)) s = .next t →
      exec (.crcPbuf (BitVec.ofNat 13 (a + n)) (BitVec.ofNat 13 m)) t = .next u →
      exec (.crcPbuf (BitVec.ofNat 13 a) (BitVec.ofNat 13 (n + m))) s = .next u)

/-- R105: CRC_INIT and then one CRC_BYTE for each byte of d, issued by the host, leave CRC_OUT at the pure function `crc32(d)`. -/
def Obligations.CrcBytesComputeThePureFunction : Prop :=
  ∀ (s : State) (d : List Byte), faultFlag s = false →
    Sys2Proof.core.run (d.length + 1)
      { s with pending := commandAction .crcInit :: d.map (fun b => commandAction (.crcByte b)) } =
        .next { s with pending := [], crcAcc := d.foldl crcStep 0xFFFFFFFF#32 } ∧
    readReg .crcOut { s with pending := [], crcAcc := d.foldl crcStep 0xFFFFFFFF#32 } = crc32 d

/-! ### The Bit Writer (spec/41_bit_writer.md) -/

/-- R121: a command that writes n bits at BIDX raises CAPACITY exactly when `BIDX + n > CAP_BITS`, before writing anything. -/
def Obligations.CapacityIsCheckedBeforeAnyWrite : Prop :=
  ∀ (i : Instr) (n : Nat) (s : State), capacityBits i = some n →
    (s.bidx.toNat + n > 53248 → exec i s = .next { s with status := 0x201#32, faultcmd := encode i }) ∧
    (s.bidx.toNat + n ≤ 53248 → ∀ t, exec i s = .next t →
      t.status = s.status ∧ t.faultcmd = s.faultcmd ∧ t.bidx.toNat = s.bidx.toNat + n)

/-- R122, R123: BW_BYTE ORs bit j of the value into TBUF bit `BIDX + 7 - j`, leaves every other bit, the bytes it does not touch,
and everything but TBUF and BIDX as they were, and advances the cursor by 8; an undefined byte stays undefined. -/
def Obligations.BwByteWritesEightBits : Prop :=
  ∀ (s : State) (v : Byte), s.bidx.toNat + 8 ≤ 53248 →
    ∃ t, exec (.bwByte v) s = .next t ∧ t = { s with tbuf := t.tbuf, bidx := t.bidx } ∧
      t.bidx.toNat = s.bidx.toNat + 8 ∧
      (∀ j, j < 8 → Memory.bit t.tbuf (s.bidx.toNat + 7 - j) =
        (Memory.bit s.tbuf (s.bidx.toNat + 7 - j)).map (· || v.getLsbD j)) ∧
      (∀ k, k < s.bidx.toNat ∨ s.bidx.toNat + 8 ≤ k → Memory.bit t.tbuf k = Memory.bit s.tbuf k) ∧
      (∀ a, a ≠ s.bidx.toNat / 8 → (a ≠ s.bidx.toNat / 8 + 1 ∨ s.bidx.toNat % 8 = 0) →
        Memory.read t.tbuf a = Memory.read s.tbuf a)

/-- R124: BW_4AND4 ORs the bytes `(v >> 1) | 0xAA` and `v | 0xAA` into the 16 bits at the cursor, leaves everything else as it was,
and advances the cursor by 16. -/
def Obligations.Bw4and4WritesSixteenBits : Prop :=
  ∀ (s : State) (v : Byte), s.bidx.toNat + 16 ≤ 53248 →
    ∃ t, exec (.bw4and4 v) s = .next t ∧ t = { s with tbuf := t.tbuf, bidx := t.bidx } ∧
      t.bidx.toNat = s.bidx.toNat + 16 ∧
      (∀ j, j < 8 → Memory.bit t.tbuf (s.bidx.toNat + 7 - j) =
        (Memory.bit s.tbuf (s.bidx.toNat + 7 - j)).map (· || ((v >>> 1) ||| 0xAA#8).getLsbD j)) ∧
      (∀ j, j < 8 → Memory.bit t.tbuf (s.bidx.toNat + 15 - j) =
        (Memory.bit s.tbuf (s.bidx.toNat + 15 - j)).map (· || (v ||| 0xAA#8).getLsbD j)) ∧
      (∀ k, k < s.bidx.toNat ∨ s.bidx.toNat + 16 ≤ k → Memory.bit t.tbuf k = Memory.bit s.tbuf k) ∧
      (∀ a, a < s.bidx.toNat / 8 ∨ (s.bidx.toNat + 15) / 8 < a → Memory.read t.tbuf a = Memory.read s.tbuf a)

/-- R126, R127: BW_SYNC sets the eight defined bits at the cursor, does not write the two slack bits, leaves everything else as it
was, and advances the cursor by 10; on zeroed bits that is a 0xFF byte followed by two zeros. -/
def Obligations.BwSyncWritesASyncWord : Prop :=
  ∀ s : State, s.bidx.toNat + 10 ≤ 53248 →
    ∃ t, exec .bwSync s = .next t ∧ t = { s with tbuf := t.tbuf, bidx := t.bidx } ∧
      t.bidx.toNat = s.bidx.toNat + 10 ∧
      (∀ k, s.bidx.toNat ≤ k → k < s.bidx.toNat + 8 →
        Memory.bit t.tbuf k = (Memory.bit s.tbuf k).map (fun _ => true)) ∧
      (∀ k, k < s.bidx.toNat ∨ s.bidx.toNat + 8 ≤ k → Memory.bit t.tbuf k = Memory.bit s.tbuf k) ∧
      (∀ a, a < s.bidx.toNat / 8 ∨ (s.bidx.toNat + 7) / 8 < a → Memory.read t.tbuf a = Memory.read s.tbuf a) ∧
      ((∀ k, s.bidx.toNat ≤ k → k < s.bidx.toNat + 10 → Memory.bit s.tbuf k = some false) →
        SyncsAt t.tbuf s.bidx.toNat 1)

/-- R125, of the two bytes BW_4AND4 writes: the first holds the odd bits of v and the second the even bits, bits 7, 5, 3, 1 of both
are 1, v is recovered from them, and they are what BW_4AND4 leaves on zeroed bits at the cursor. -/
def Obligations.FourAndFourFormIsRecovered : Prop :=
  ∀ v : Byte,
    (∀ n, n < 4 →
      (fourAndFourOdd v).getLsbD (2 * n) = v.getLsbD (2 * n + 1) ∧ (fourAndFourEven v).getLsbD (2 * n) = v.getLsbD (2 * n) ∧
      (fourAndFourOdd v).getLsbD (2 * n + 1) = true ∧ (fourAndFourEven v).getLsbD (2 * n + 1) = true) ∧
    ((fourAndFourOdd v <<< 1) ||| 1#8) &&& fourAndFourEven v = v ∧
    ∀ s : State, s.bidx.toNat + 16 ≤ 53248 →
      (∀ k, s.bidx.toNat ≤ k → k < s.bidx.toNat + 16 → Memory.bit s.tbuf k = some false) →
      ∃ t, exec (.bw4and4 v) s = .next t ∧ BytesAt t.tbuf s.bidx.toNat [fourAndFourOdd v, fourAndFourEven v]

/-- R128: BW_CLEAR runs on every state and leaves every TBUF byte 0 and defined, and everything but TBUF as it was; on a TBUF in
canonical form it is the loop of MemWrite the rule gives. -/
def Obligations.BwClearStoresZeroEverywhere : Prop :=
  ∀ s : State,
    (∃ t, exec .bwClear s = .next t ∧ t = { s with tbuf := t.tbuf } ∧
      ∀ a, Memory.read t.tbuf a = if a < 6656 then some 0#8 else none) ∧
    (Memory.wf 6656 s.tbuf = true →
      exec .bwClear s = .next ((List.range 6656).foldl (fun u a => memWrite .tbuf a 0#8 u) s))

/-- R123: n BW_BYTE commands that fit, issued one after another, advance the cursor by exactly 8n and put their bytes on zeroed
TBUF one after another from the cursor on. -/
def Obligations.SuccessiveBytesAdvanceByEight : Prop :=
  ∀ (s : State) (d : List Byte), faultFlag s = false → s.bidx.toNat + 8 * d.length ≤ 53248 →
    ∃ t, Sys2Proof.core.run d.length { s with pending := d.map (fun v => commandAction (.bwByte v)) } = .next t ∧
      t.bidx.toNat = s.bidx.toNat + 8 * d.length ∧ t = { s with pending := [], tbuf := t.tbuf, bidx := t.bidx } ∧
      ((∀ a, a < 6656 → Memory.read s.tbuf a = some 0#8) → BytesAt t.tbuf s.bidx.toNat d)

/-- R53, R122: no command but BW_CLEAR and TE_ENCODE clears a TBUF bit or makes a TBUF byte defined. -/
def Obligations.WritesNeverClearABit : Prop :=
  ∀ (i : Instr) (s t : State), clearsTbuf i = false → exec i s = .next t →
    ∀ k, (Memory.bit s.tbuf k = some true → Memory.bit t.tbuf k = some true) ∧
      ((Memory.bit t.tbuf k).isSome = (Memory.bit s.tbuf k).isSome)

/-! ### The Sector Content Encoder (spec/42_sector_encoder.md) -/

/-- R141, R142: the 342 values before chaining, bit by bit: the reversed low two bits of the payload bytes, then their high six
bits. -/
def Obligations.UnchainedValuesOfAPayload : Prop :=
  ∀ p : List Byte, p.length = 256 →
    (unchained p).length = 342 ∧
    (∀ c, c < 86 →
      ((unchained p).getD c 0#8).getLsbD 0 = (p.getD c 0#8).getLsbD 1 ∧
      ((unchained p).getD c 0#8).getLsbD 1 = (p.getD c 0#8).getLsbD 0 ∧
      ((unchained p).getD c 0#8).getLsbD 2 = (p.getD (c + 86) 0#8).getLsbD 1 ∧
      ((unchained p).getD c 0#8).getLsbD 3 = (p.getD (c + 86) 0#8).getLsbD 0 ∧
      ((unchained p).getD c 0#8).getLsbD 4 = (decide (c < 84) && (p.getD (c + 172) 0#8).getLsbD 1) ∧
      ((unchained p).getD c 0#8).getLsbD 5 = (decide (c < 84) && (p.getD (c + 172) 0#8).getLsbD 0) ∧
      ((unchained p).getD c 0#8).getLsbD 6 = false ∧ ((unchained p).getD c 0#8).getLsbD 7 = false) ∧
    (∀ c, c < 256 → (unchained p).getD (86 + c) 0#8 = p.getD c 0#8 >>> 2)

/-- R143: the downward in-place sweep has the closed form of the rule's table, under DOC and under REF. -/
def Obligations.ChainHasItsClosedForm : Prop :=
  ∀ (mode : ChainMode) (q : List Byte), q.length = 342 →
    (chain mode q).length = 343 ∧
    (chain mode q).getD 0 0#8 = q.getD 0 0#8 ∧
    (chain mode q).getD 1 0#8 =
      (match mode with | .doc => q.getD 1 0#8 | .ref => q.getD 1 0#8 ^^^ q.getD 0 0#8) ∧
    (∀ i, 2 ≤ i → i ≤ 341 → (chain mode q).getD i 0#8 = q.getD i 0#8 ^^^ q.getD (i - 1) 0#8) ∧
    (chain mode q).getD 342 0#8 = (match mode with | .doc => 0#8 | .ref => q.getD 341 0#8)

/-- R145: every value before translation is in 0..63, under either CHAIN_MODE. -/
def Obligations.EncodedValuesAreSixBits : Prop :=
  ∀ (mode : ChainMode) (p : List Byte), p.length = 256 → ∀ v ∈ chain mode (unchained p), v.toNat ≤ 63

/-- R140, R144: SE_ENCODE over a defined sector rewrites the 343 bytes of EBUF with the translated values of its payload and changes
nothing else. -/
def Obligations.SeEncodeFillsEbuf : Prop :=
  ∀ (s : State) (l : BitVec 4) (p : List Byte), p.length = 256 → Holds s .pbuf (256 * l.toNat) p →
    ∃ t, exec (.seEncode l) s = .next t ∧ t = { s with ebuf := t.ebuf } ∧
      (∀ i, i < 343 → Memory.read t.ebuf i = ((chain s.chainMode (unchained p))[i]?).map gcr62) ∧
      (∀ a, 343 ≤ a → Memory.read t.ebuf a = Memory.read s.ebuf a)

/-- R140, R206: SE_ENCODE stops with UNDEF_READ at the first undefined byte of its sector. -/
def Obligations.SeEncodeStopsAtTheFirstUndefinedByte : Prop :=
  ∀ (s : State) (l : BitVec 4) (k : Nat), k < 256 → Memory.read s.pbuf (256 * l.toNat + k) = none →
    Defined s .pbuf (256 * l.toNat) k → exec (.seEncode l) s = .fault (.undefRead .pbuf (256 * l.toNat + k))

/-- R146: after SE_ENCODE of a defined sector, EBUF holds exactly 343 bytes, each an entry of GCR62. -/
def Obligations.SeEncodeOutputIsTableEntries : Prop :=
  ∀ (s : State) (l : BitVec 4), Memory.wf 343 s.ebuf = true → Defined s .pbuf (256 * l.toNat) 256 →
    ∃ t, exec (.seEncode l) s = .next t ∧ (∀ i, i < 343 → ∃ v ∈ gcr62Table, Memory.read t.ebuf i = some v) ∧
    (∀ i, 343 ≤ i → Memory.read t.ebuf i = none)

/-- R147: an all-zero sector encodes to 343 bytes of GCR62[0], under either CHAIN_MODE. -/
def Obligations.AllZeroSectorEncodesToTheFirstEntry : Prop :=
  ∀ (s : State) (l : BitVec 4), (∀ j, j < 256 → Memory.read s.pbuf (256 * l.toNat + j) = some 0#8) →
    ∃ t, exec (.seEncode l) s = .next t ∧ ∀ i, i < 343 → Memory.read t.ebuf i = some (gcr62Table.getD 0 0#8)

/-- R141 to R144 with the default GCR62 (log 6): different payloads encode to different disk bytes, under either CHAIN_MODE. -/
def Obligations.SectorEncodingIsInjective : Prop :=
  ∀ (mode : ChainMode) (p p' : List Byte), p.length = 256 → p'.length = 256 →
    encodeSector mode p = encodeSector mode p' → p = p'

/-- R148: SE_EMIT over a defined EBUF, where 2744 bits fit, ORs its 343 bytes into the bits from the cursor on, most significant bit
first, leaves every other bit and everything but TBUF and BIDX as it was, and advances the cursor by 2744. -/
def Obligations.SeEmitWritesEbuf : Prop :=
  ∀ (s : State) (e : List Byte), e.length = 343 → Holds s .ebuf 0 e → s.bidx.toNat + 2744 ≤ 53248 →
    ∃ t, exec .seEmit s = .next t ∧ t = { s with tbuf := t.tbuf, bidx := t.bidx } ∧
      t.bidx.toNat = s.bidx.toNat + 2744 ∧
      (∀ i, i < 343 → ∀ j, j < 8 → Memory.bit t.tbuf (s.bidx.toNat + 8 * i + j) =
        (Memory.bit s.tbuf (s.bidx.toNat + 8 * i + j)).map (· || (e.getD i 0#8).getLsbD (7 - j))) ∧
      (∀ k, k < s.bidx.toNat ∨ s.bidx.toNat + 2744 ≤ k → Memory.bit t.tbuf k = Memory.bit s.tbuf k) ∧
      (∀ a, a < s.bidx.toNat / 8 ∨ (s.bidx.toNat + 2743) / 8 < a → Memory.read t.tbuf a = Memory.read s.tbuf a)

/-- R148, R207: where 2744 bits fit, SE_EMIT stops with UNDEF_READ at the first undefined byte of EBUF; where they do not fit,
CAPACITY comes first. -/
def Obligations.SeEmitChecksCapacityThenReads : Prop :=
  ∀ (s : State) (k : Nat), k < 343 → Memory.read s.ebuf k = none → Defined s .ebuf 0 k →
    (s.bidx.toNat + 2744 ≤ 53248 → exec .seEmit s = .fault (.undefRead .ebuf k)) ∧
    (s.bidx.toNat + 2744 > 53248 → exec .seEmit s = .next { s with status := 0x201#32, faultcmd := 0x44000000#32 })

/-! ### The Track Encoder (spec/43_track_encoder.md) -/

/-- R161: the interleave maps, as the rule's table lists them. -/
def Obligations.InterleaveMapsArePermutations : Prop :=
  (List.range 16).map (fun k => logicalSector k .primary) = [0, 7, 14, 6, 13, 5, 12, 4, 11, 3, 10, 2, 9, 1, 8, 15] ∧
  (List.range 16).map (fun k => logicalSector k .alternate) = [0, 8, 1, 9, 2, 10, 3, 11, 4, 12, 5, 13, 6, 14, 7, 15] ∧
  ∀ f l, l < 16 → ∃ k, k < 16 ∧ logicalSector k f = l ∧ ∀ k', k' < 16 → logicalSector k' f = l → k' = k

/-- R164, R165: over a defined payload every TE_ENCODE completes with BITCNT = BIDX = 50632, TRKFMT its operands, every TBUF byte
defined and those from 6329 on 0, EBUF the encoding of logical sector 15, and everything else unchanged. -/
def Obligations.TeEncodeCompletes : Prop :=
  ∀ (s : State) (trk : Byte) (f : Interleave), Defined s .pbuf 0 4096 →
    ∃ t, exec (.teEncode trk f) s = .next t ∧
      t = { s with bidx := 50632#32, bitcnt := 50632#32, trkfmt := t.trkfmt, tbuf := t.tbuf, ebuf := t.ebuf } ∧
      t.trkfmt = trk.setWidth 32 ||| (match f with | .primary => 0#32 | .alternate => 0x100#32) ∧
      (∀ a, a < 6656 → (Memory.read t.tbuf a).isSome = true) ∧
      (∀ a, 6329 ≤ a → a < 6656 → Memory.read t.tbuf a = some 0#8) ∧
      (∀ a, 6656 ≤ a → Memory.read t.tbuf a = none) ∧
      (∀ p : List Byte, p.length = 256 → Holds s .pbuf 3840 p →
        ∀ i, i < 343 → Memory.read t.ebuf i = (encodeSector s.chainMode p)[i]?) ∧
      (∀ a, 343 ≤ a → Memory.read t.ebuf a = Memory.read s.ebuf a)

/-- R162, R163: where every field of the track of a defined payload stands: the leader, and for each physical sector its address
field, gap, data field and what follows it. -/
def Obligations.TrackLayout : Prop :=
  ∀ (s : State) (trk : Byte) (f : Interleave), Defined s .pbuf 0 4096 →
    ∃ t, exec (.teEncode trk f) s = .next t ∧ SyncsAt t.tbuf 0 64 ∧
    ∀ k, k < 16 →
      BytesAt t.tbuf (sectorStart k) [0xD5#8, 0xAA#8, 0x96#8] ∧
      BytesAt t.tbuf (sectorStart k + 24) (fourAndFour 254#8) ∧
      BytesAt t.tbuf (sectorStart k + 40) (fourAndFour trk) ∧
      BytesAt t.tbuf (sectorStart k + 56) (fourAndFour (BitVec.ofNat 8 k)) ∧
      BytesAt t.tbuf (sectorStart k + 72) (fourAndFour (254#8 ^^^ trk ^^^ BitVec.ofNat 8 k)) ∧
      BytesAt t.tbuf (sectorStart k + 88) [0xDE#8, 0xAA#8, 0xEB#8] ∧
      SyncsAt t.tbuf (sectorStart k + 112) 7 ∧
      BytesAt t.tbuf (sectorStart k + 182) [0xD5#8, 0xAA#8, 0xAD#8] ∧
      (∀ p : List Byte, p.length = 256 → Holds s .pbuf (256 * logicalSector k f) p →
        BytesAt t.tbuf (sectorStart k + 206) (encodeSector s.chainMode p)) ∧
      BytesAt t.tbuf (sectorStart k + 2950) [0xDE#8, 0xAA#8, 0xEB#8] ∧
      (if k < 15 then SyncsAt t.tbuf (sectorStart k + 2974) 16 else BytesAt t.tbuf (sectorStart k + 2974) [0xFF#8])

/-- R166: over a defined payload TE_ENCODE has the effect of the rule's sequence of single commands, issued one after another by the host, but for writing
BITCNT and TRKFMT. -/
def Obligations.TeEncodeEqualsItsCommandSequence : Prop :=
  ∀ (s : State) (trk : Byte) (f : Interleave), faultFlag s = false → Defined s .pbuf 0 4096 →
    ∃ t, exec (.teEncode trk f) s = .next t ∧
    Sys2Proof.core.run (trackProgram trk f).length { s with pending := (trackProgram trk f).map commandAction } =
      .next { t with bitcnt := s.bitcnt, trkfmt := s.trkfmt, pending := [] }

/-- R160, R206, R207: over a payload with an undefined byte TE_ENCODE stops with UNDEF_READ at an undefined byte of PBUF: the first
one in the order of its reads, the logical sectors of physical slots 0 to 15 one after another, each from its byte 0 up. -/
def Obligations.TeEncodeStopsAtAnUndefinedByte : Prop :=
  ∀ (s : State) (trk : Byte) (f : Interleave),
    (∀ a, a < 4096 → Memory.read s.pbuf a = none →
      ∃ a', a' < 4096 ∧ Memory.read s.pbuf a' = none ∧ exec (.teEncode trk f) s = .fault (.undefRead .pbuf a')) ∧
    ∀ k j, k < 16 → j < 256 → Memory.read s.pbuf (256 * logicalSector k f + j) = none →
      (∀ k', k' < k → Defined s .pbuf (256 * logicalSector k' f) 256) → Defined s .pbuf (256 * logicalSector k f) j →
      exec (.teEncode trk f) s = .fault (.undefRead .pbuf (256 * logicalSector k f + j))

/-- R160: over a defined payload TE_ENCODE depends on PBUF and CHAIN_MODE alone: what TBUF, EBUF, BIDX, CRC_ACC and the other registers held before makes
no difference to the track. -/
def Obligations.TrackDependsOnPayloadAlone : Prop :=
  ∀ (s s' : State) (trk : Byte) (f : Interleave), s'.pbuf = s.pbuf → s'.chainMode = s.chainMode →
    Defined s .pbuf 0 4096 →
    ∃ t t', exec (.teEncode trk f) s = .next t ∧ exec (.teEncode trk f) s' = .next t' ∧ t'.tbuf = t.tbuf ∧ t'.bidx = t.bidx ∧ t'.bitcnt = t.bitcnt ∧
      t'.trkfmt = t.trkfmt ∧ ∀ i, i < 343 → Memory.read t'.ebuf i = Memory.read t.ebuf i

/-! ### The host's window (spec/20_memory.md) -/

/-- R23, R24, R28, R52: a 32-bit read at each register's offset returns that register and changes nothing else; a read of CMD is an
unspecified value. The form of that value, `Config.unspecified` at the counter `draws` with the counter raised by 1, is the model's
choice (log 4, DESIGN CHOICE). -/
def Obligations.HostReadsEachRegister : Prop :=
  ∀ (s : State) (rest : List HostAction) (addr : BitVec 16), s.pending = .read .w32 addr :: rest →
    (addr = 0x5000#16 → step s = .next { s with
      pending := rest, readLog := .word (Config.unspecified s.draws) :: s.readLog, draws := s.draws + 1 }) ∧
    (addr = 0x5004#16 → step s = .next { s with pending := rest, readLog := .word s.status :: s.readLog }) ∧
    (addr = 0x5008#16 → step s = .next { s with pending := rest, readLog := .word s.faultcmd :: s.readLog }) ∧
    (addr = 0x500C#16 → step s = .next { s with pending := rest, readLog := .word s.crcAcc :: s.readLog }) ∧
    (addr = 0x5010#16 → step s = .next { s with pending := rest, readLog := .word (~~~ s.crcAcc) :: s.readLog }) ∧
    (addr = 0x5014#16 → step s = .next { s with pending := rest, readLog := .word s.bidx :: s.readLog }) ∧
    (addr = 0x5018#16 → step s = .next { s with pending := rest, readLog := .word s.bitcnt :: s.readLog }) ∧
    (addr = 0x501C#16 → step s = .next { s with pending := rest, readLog := .word s.trkfmt :: s.readLog }) ∧
    (addr = 0x5020#16 → step s = .next { s with
      pending := rest, readLog := .word (if s.chainMode = .ref then 1#32 else 0#32) :: s.readLog })

/-- R51, R52: an 8-bit read at a RAM byte's window address returns the byte and changes nothing else, or is UNDEF_READ where the byte
is undefined. -/
def Obligations.HostReadsRamBytes : Prop :=
  ∀ (s : State) (rest : List HostAction) (sp : Space) (base i : Nat),
    (sp, base) ∈ [(Space.pbuf, 0x0000), (Space.tbuf, 0x2000), (Space.ebuf, 0x4000)] → i < sp.size →
    s.pending = .read .w8 (BitVec.ofNat 16 (base + i)) :: rest →
    (∀ v, Memory.read (s.mem sp) i = some v →
      step s = .next { s with pending := rest, readLog := .byte v :: s.readLog }) ∧
    (Memory.read (s.mem sp) i = none → step s = .fault (.undefRead sp i))

/-- R51, R52: an 8-bit write to a PBUF or TBUF byte stores it and changes no other byte and no register; to EBUF it has no effect. -/
def Obligations.HostWritesRamBytes : Prop :=
  ∀ (s : State) (rest : List HostAction) (i : Nat) (v : Byte),
    (i < 4096 → s.pending = .write8 (BitVec.ofNat 16 i) v :: rest →
      ∃ t, step s = .next t ∧ t = { s with pending := rest, pbuf := t.pbuf } ∧
        ∀ a, Memory.read t.pbuf a = if a = i then some v else Memory.read s.pbuf a) ∧
    (i < 6656 → s.pending = .write8 (BitVec.ofNat 16 (0x2000 + i)) v :: rest →
      ∃ t, step s = .next t ∧ t = { s with pending := rest, tbuf := t.tbuf } ∧
        ∀ a, Memory.read t.tbuf a = if a = i then some v else Memory.read s.tbuf a) ∧
    (i < 343 → s.pending = .write8 (BitVec.ofNat 16 (0x4000 + i)) v :: rest →
      step s = .next { s with pending := rest })

/-- R52, R217: a host interaction is refused exactly when it breaks the host contract (which accesses to unmapped addresses keep it
is the model's reading, log 10). -/
def Obligations.OnlyAccessesOutsideTheContractAreRefused : Prop :=
  ∀ (s : State) (act : HostAction) (rest : List HostAction), s.pending = act :: rest →
    ((∃ r, step s = .refused r) ↔ act.wellFormed = false) ∧
    (act.wellFormed = false → step s = .refused (.noMove act))

/-- R52: an access all of whose bytes are unmapped: a read returns an unspecified value of its width, a write has no effect. That an
access of several bytes is judged byte by byte is the model's choice (log 10, DESIGN CHOICE), and so is the form of the value, the
low bits of `Config.unspecified` at the counter `draws` with the counter raised by 1 (log 4, DESIGN CHOICE). A 32-bit write to a
register other than CMD has no effect either. -/
def Obligations.UnmappedAndReadOnlyAccesses : Prop :=
  ∀ (s : State) (rest : List HostAction) (addr : BitVec 16),
    (∀ w, (∀ k, k < w.bytes → windowMapped (addr.toNat + k) = false) → s.pending = .read w addr :: rest →
      ∃ x, step s = .next { s with pending := rest, draws := s.draws + 1, readLog := x :: s.readLog } ∧
        x = (match w with
          | .w8 => HostValue.byte ((Config.unspecified s.draws).setWidth 8)
          | .w16 => HostValue.half ((Config.unspecified s.draws).setWidth 16)
          | .w32 => HostValue.word (Config.unspecified s.draws))) ∧
    (∀ v, windowMapped addr.toNat = false → s.pending = .write8 addr v :: rest →
      step s = .next { s with pending := rest }) ∧
    (∀ v, (∀ k, k < 2 → windowMapped (addr.toNat + k) = false) → s.pending = .write16 addr v :: rest →
      step s = .next { s with pending := rest }) ∧
    (∀ v, (∀ k, k < 4 → windowMapped (addr.toNat + k) = false) → s.pending = .write32 addr v :: rest →
      step s = .next { s with pending := rest }) ∧
    (∀ v, 0x5000 < addr.toNat → addr.toNat < 0x5024 → addr.toNat % 4 = 0 → s.pending = .write32 addr v :: rest →
      step s = .next { s with pending := rest })

/-- R59, R205: a host read changes nothing but what the model keeps of reads (logs 3 and 4), whether or not a fault is recorded. -/
def Obligations.HostReadsHaveNoSideEffect : Prop :=
  ∀ (s t : State) (w : Width) (addr : BitVec 16) (rest : List HostAction), s.pending = .read w addr :: rest →
    step s = .next t → ∃ x n, t = { s with pending := rest, readLog := x :: s.readLog, draws := n }

/-- R54: the byte lanes of a register are little-endian and make up the word. -/
def Obligations.RegisterLanesMakeUpTheWord : Prop :=
  ∀ w : Word, registerLane w 3 ++ registerLane w 2 ++ registerLane w 1 ++ registerLane w 0 = w

/-! ### Whole-machine rules -/

/-- The reset state meets the invariant (R39). -/
def Obligations.ResetMeetsTheInvariant : Prop := Inv State.reset

/-- Every step from a state that meets the invariant gives a state that meets it: the RAMs keep their form, EBUF holds nothing or 343
table entries, STATUS, FAULTCMD, BIDX, BITCNT and TRKFMT keep the values the rules allow (R25 to R30, R36, R50, R129, R146, R164). -/
def Obligations.EveryStepKeepsTheInvariant : Prop := ∀ s t : State, Inv s → step s = .next t → Inv t

/-- R28: CONFIG reads CHAIN_MODE in bit 0 (0 DOC, 1 REF) and 0 in bits [31:1], and "does not change at reset or ever". -/
def Obligations.ConfigNeverChanges : Prop :=
  (∀ s : State, (readReg .config s).getLsbD 0 = (s.chainMode == .ref) ∧ (readReg .config s).extractLsb' 1 31 = 0#31) ∧
  ∀ s t : State, step s = .next t → t.chainMode = s.chainMode ∧ readReg .config t = readReg .config s

/-- R23, R50: each register and RAM is written only by the commands the tables name; no command writes PBUF, CONFIG or the host's
own fields. STATUS and FAULTCMD are changed by fault entry and reset only: not by a command that checks neither a capacity nor a
range, and in a step only by the host's reset or by a command written to CMD that enters a fault and changes nothing else. -/
def Obligations.OnlyNamedCommandsWriteEachPiece : Prop :=
  (∀ (s t : State), step s = .next t →
    (t.status = s.status ∧ t.faultcmd = s.faultcmd) ∨ (∃ rest, s.pending = .reset :: rest) ∨
    ∃ (w : Word) (rest : List HostAction) (c : Word), s.pending = .write32 0x5000#16 w :: rest ∧
      (c = 1#32 ∨ c = 2#32 ∨ c = 3#32) ∧
      t = { s with pending := rest, status := (c <<< 8) ||| 1#32, faultcmd := w }) ∧
  ∀ (i : Instr) (s t : State), exec i s = .next t →
    (capacityBits i = none → checkedRange i = none → t.status = s.status ∧ t.faultcmd = s.faultcmd) ∧
    (writesCrcAcc i = false → t.crcAcc = s.crcAcc) ∧ (writesBidx i = false → t.bidx = s.bidx) ∧
    (writesTrack i = false → t.bitcnt = s.bitcnt ∧ t.trkfmt = s.trkfmt) ∧
    (writesTbuf i = false → ∀ a, Memory.read t.tbuf a = Memory.read s.tbuf a) ∧
    (writesEbuf i = false → ∀ a, Memory.read t.ebuf a = Memory.read s.ebuf a) ∧
    (∀ a, Memory.read t.pbuf a = Memory.read s.pbuf a) ∧ t.chainMode = s.chainMode ∧ t.draws = s.draws ∧
    t.pending = s.pending ∧ t.readLog = s.readLog
end

