-- ==== Sys2Proof/Laws/Memory.lean ====
section
/-! SUPPORT. The laws of a RAM: read after write, OR and fill, and that every operation keeps the canonical form. -/

namespace Sys2Proof.Machine

/-! ### Reading -/

@[simp] theorem read_nil (a : Nat) : Memory.read [] a = none := rfl

theorem read_cons (k : Nat) (v : Byte) (rest : Memory) (a : Nat) :
    Memory.read ((k, v) :: rest) a = if k = a then some v else Memory.read rest a := rfl

@[simp] theorem read_write_same (m : Memory) (a : Nat) (v : Byte) : Memory.read (Memory.write m a v) a = some v := by
  induction m with
  | nil => simp [Memory.write, read_cons]
  | cons c rest ih =>
    obtain ⟨k, w⟩ := c
    simp only [Memory.write]
    split
    · simp [read_cons]
    · split
      · simp [read_cons]
      · simp [read_cons, *]

theorem read_write_other (m : Memory) (a b : Nat) (v : Byte) (h : b ≠ a) :
    Memory.read (Memory.write m a v) b = Memory.read m b := by
  induction m with
  | nil => simp [Memory.write, read_cons, Ne.symm h]
  | cons c rest ih =>
    obtain ⟨k, w⟩ := c
    simp only [Memory.write]
    split
    · simp [read_cons, Ne.symm h]
    · split
      · subst k; simp [read_cons, Ne.symm h]
      · simp [read_cons, ih]

theorem read_write (m : Memory) (a b : Nat) (v : Byte) :
    Memory.read (Memory.write m a v) b = if b = a then some v else Memory.read m b := by
  split
  · subst b; exact read_write_same m a v
  · exact read_write_other m a b v ‹_›

theorem read_or (m : Memory) (a b : Nat) (v : Byte) :
    Memory.read (Memory.or m a v) b = if b = a then (Memory.read m b).map (· ||| v) else Memory.read m b := by
  induction m with
  | nil => simp [Memory.or]
  | cons c rest ih =>
    obtain ⟨k, w⟩ := c
    simp only [Memory.or]
    by_cases hk : k = a
    · subst k
      by_cases hb : b = a
      · subst b; simp [read_cons]
      · simp [read_cons, hb, Ne.symm hb]
    · by_cases hb : k = b
      · subst k; simp [read_cons, hk]
      · simp [read_cons, hk, hb, ih]

theorem read_map_range (f : Nat → Byte) (lo n a : Nat) :
    Memory.read ((List.range' lo n).map (fun k => (k, f k))) a = if lo ≤ a ∧ a < lo + n then some (f a) else none := by
  induction n generalizing lo with
  | zero => simp
  | succ n ih =>
    rw [List.range'_succ, List.map_cons, read_cons, ih]
    by_cases h : lo = a
    · subst h; simp
    · rw [if_neg h]
      have : (lo + 1 ≤ a ∧ a < lo + 1 + n) ↔ (lo ≤ a ∧ a < lo + (n + 1)) := by omega
      simp only [this]

theorem read_filled (n : Nat) (v : Byte) (a : Nat) :
    Memory.read (Memory.filled n v) a = if a < n then some v else none := by
  have h := read_map_range (fun _ => v) 0 n a
  simpa [Memory.filled, List.range_eq_range'] using h

/-! ### Bits (R55) -/

theorem bit_or (m : Memory) (a k : Nat) (v : Byte) :
    Memory.bit (Memory.or m a v) k =
      if k / 8 = a then (Memory.bit m k).map (· || v.getLsbD (7 - k % 8)) else Memory.bit m k := by
  simp only [Memory.bit, read_or]
  split
  · cases Memory.read m (k / 8) <;> simp
  · rfl

/-! ### The canonical form -/

theorem wfFrom_mono {lo lo' size : Nat} (m : Memory) (h : lo' ≤ lo) (hm : Memory.wfFrom lo size m = true) :
    Memory.wfFrom lo' size m = true := by
  cases m with
  | nil => rfl
  | cons c rest =>
    obtain ⟨k, v⟩ := c
    simp only [Memory.wfFrom, Bool.and_eq_true, decide_eq_true_eq] at hm ⊢
    exact ⟨⟨by omega, hm.1.2⟩, hm.2⟩

theorem wfFrom_write {lo size : Nat} (m : Memory) (a : Nat) (v : Byte) (hlo : lo ≤ a) (ha : a < size)
    (hm : Memory.wfFrom lo size m = true) : Memory.wfFrom lo size (Memory.write m a v) = true := by
  induction m generalizing lo with
  | nil => simp [Memory.write, Memory.wfFrom, hlo, ha]
  | cons c rest ih =>
    obtain ⟨k, w⟩ := c
    simp only [Memory.wfFrom, Bool.and_eq_true, decide_eq_true_eq] at hm
    simp only [Memory.write]
    split
    · simp [Memory.wfFrom, hlo, ha, hm]
      omega
    · split
      · subst k; simp [Memory.wfFrom, hm]
      · simp [Memory.wfFrom, hm]
        exact ih (by omega) hm.2

/-- Storing a byte inside the RAM keeps the canonical form. -/
theorem wf_write {size : Nat} (m : Memory) (a : Nat) (v : Byte) (ha : a < size) (hm : Memory.wf size m = true) :
    Memory.wf size (Memory.write m a v) = true :=
  wfFrom_write m a v (Nat.zero_le a) ha hm

theorem wfFrom_or {lo size : Nat} (m : Memory) (a : Nat) (v : Byte) :
    Memory.wfFrom lo size (Memory.or m a v) = Memory.wfFrom lo size m := by
  induction m generalizing lo with
  | nil => rfl
  | cons c rest ih =>
    obtain ⟨k, w⟩ := c
    simp only [Memory.or]
    split <;> simp [Memory.wfFrom, ih]

/-- ORing into a RAM keeps the canonical form. -/
theorem wf_or {size : Nat} (m : Memory) (a : Nat) (v : Byte) : Memory.wf size (Memory.or m a v) = Memory.wf size m :=
  wfFrom_or m a v

theorem wfFrom_map_range (f : Nat → Byte) (lo n size : Nat) (h : lo + n ≤ size) :
    Memory.wfFrom lo size ((List.range' lo n).map (fun k => (k, f k))) = true := by
  induction n generalizing lo with
  | zero => rfl
  | succ n ih =>
    rw [List.range'_succ, List.map_cons]
    simp [Memory.wfFrom, ih (lo + 1) (by omega)]
    omega

/-- A filled RAM has the canonical form. -/
theorem wf_filled (n : Nat) (v : Byte) : Memory.wf n (Memory.filled n v) = true := by
  have h := wfFrom_map_range (fun _ => v) 0 n n (by omega)
  simpa [Memory.filled, Memory.wf, List.range_eq_range'] using h

/-- A RAM with nothing defined has the canonical form. -/
theorem wf_nil (size : Nat) : Memory.wf size [] = true := rfl

/-- After reset every RAM has the canonical form, with nothing listed. -/
theorem reset_memory_wf (sp : Space) : Memory.wf sp.size (State.reset.mem sp) = true := by cases sp <;> rfl

end Sys2Proof.Machine
end

