-- ==== Sys2Proof/Laws/State.lean ====
section
/-! SUPPORT. One lemma for each field of `State` under each named update, so that no proof unfolds a record update. -/

namespace Sys2Proof.Machine

/-! ### The RAM of an address space -/

@[simp] theorem mem_pbuf (s : State) : s.mem .pbuf = s.pbuf := rfl
@[simp] theorem mem_tbuf (s : State) : s.mem .tbuf = s.tbuf := rfl
@[simp] theorem mem_ebuf (s : State) : s.mem .ebuf = s.ebuf := rfl

@[simp] theorem mem_setMem_same (s : State) (sp : Space) (m : Memory) : (s.setMem sp m).mem sp = m := by
  cases sp <;> rfl

theorem mem_setMem_other (s : State) (sp sp' : Space) (m : Memory) (h : sp' ≠ sp) :
    (s.setMem sp m).mem sp' = s.mem sp' := by
  cases sp <;> cases sp' <;> first | rfl | exact absurd rfl h

@[simp] theorem setMem_mem (s : State) (sp : Space) : s.setMem sp (s.mem sp) = s := by
  cases sp <;> rfl

@[simp] theorem setMem_setMem (s : State) (sp : Space) (m m' : Memory) : (s.setMem sp m).setMem sp m' = s.setMem sp m' := by
  cases sp <;> rfl

/-! ### s.setMem sp m, whichever RAM -/

@[simp] theorem setMem_crcAcc (s : State) (sp : Space) (m : Memory) : (s.setMem sp m).crcAcc = s.crcAcc := by cases sp <;> rfl
@[simp] theorem setMem_bidx (s : State) (sp : Space) (m : Memory) : (s.setMem sp m).bidx = s.bidx := by cases sp <;> rfl
@[simp] theorem setMem_bitcnt (s : State) (sp : Space) (m : Memory) : (s.setMem sp m).bitcnt = s.bitcnt := by cases sp <;> rfl
@[simp] theorem setMem_trkfmt (s : State) (sp : Space) (m : Memory) : (s.setMem sp m).trkfmt = s.trkfmt := by cases sp <;> rfl
@[simp] theorem setMem_status (s : State) (sp : Space) (m : Memory) : (s.setMem sp m).status = s.status := by cases sp <;> rfl
@[simp] theorem setMem_faultcmd (s : State) (sp : Space) (m : Memory) : (s.setMem sp m).faultcmd = s.faultcmd := by cases sp <;> rfl
@[simp] theorem setMem_chainMode (s : State) (sp : Space) (m : Memory) : (s.setMem sp m).chainMode = s.chainMode := by cases sp <;> rfl
@[simp] theorem setMem_draws (s : State) (sp : Space) (m : Memory) : (s.setMem sp m).draws = s.draws := by cases sp <;> rfl
@[simp] theorem setMem_pending (s : State) (sp : Space) (m : Memory) : (s.setMem sp m).pending = s.pending := by cases sp <;> rfl
@[simp] theorem setMem_readLog (s : State) (sp : Space) (m : Memory) : (s.setMem sp m).readLog = s.readLog := by cases sp <;> rfl

/-! ### s.setMem .pbuf m -/

@[simp] theorem setMem_pbuf_crcAcc (s : State) (m : Memory) : (s.setMem .pbuf m).crcAcc = s.crcAcc := rfl
@[simp] theorem setMem_pbuf_bidx (s : State) (m : Memory) : (s.setMem .pbuf m).bidx = s.bidx := rfl
@[simp] theorem setMem_pbuf_bitcnt (s : State) (m : Memory) : (s.setMem .pbuf m).bitcnt = s.bitcnt := rfl
@[simp] theorem setMem_pbuf_trkfmt (s : State) (m : Memory) : (s.setMem .pbuf m).trkfmt = s.trkfmt := rfl
@[simp] theorem setMem_pbuf_status (s : State) (m : Memory) : (s.setMem .pbuf m).status = s.status := rfl
@[simp] theorem setMem_pbuf_faultcmd (s : State) (m : Memory) : (s.setMem .pbuf m).faultcmd = s.faultcmd := rfl
@[simp] theorem setMem_pbuf_chainMode (s : State) (m : Memory) : (s.setMem .pbuf m).chainMode = s.chainMode := rfl
@[simp] theorem setMem_pbuf_pbuf (s : State) (m : Memory) : (s.setMem .pbuf m).pbuf = m := rfl
@[simp] theorem setMem_pbuf_tbuf (s : State) (m : Memory) : (s.setMem .pbuf m).tbuf = s.tbuf := rfl
@[simp] theorem setMem_pbuf_ebuf (s : State) (m : Memory) : (s.setMem .pbuf m).ebuf = s.ebuf := rfl
@[simp] theorem setMem_pbuf_draws (s : State) (m : Memory) : (s.setMem .pbuf m).draws = s.draws := rfl
@[simp] theorem setMem_pbuf_pending (s : State) (m : Memory) : (s.setMem .pbuf m).pending = s.pending := rfl
@[simp] theorem setMem_pbuf_readLog (s : State) (m : Memory) : (s.setMem .pbuf m).readLog = s.readLog := rfl

/-! ### s.setMem .tbuf m -/

@[simp] theorem setMem_tbuf_crcAcc (s : State) (m : Memory) : (s.setMem .tbuf m).crcAcc = s.crcAcc := rfl
@[simp] theorem setMem_tbuf_bidx (s : State) (m : Memory) : (s.setMem .tbuf m).bidx = s.bidx := rfl
@[simp] theorem setMem_tbuf_bitcnt (s : State) (m : Memory) : (s.setMem .tbuf m).bitcnt = s.bitcnt := rfl
@[simp] theorem setMem_tbuf_trkfmt (s : State) (m : Memory) : (s.setMem .tbuf m).trkfmt = s.trkfmt := rfl
@[simp] theorem setMem_tbuf_status (s : State) (m : Memory) : (s.setMem .tbuf m).status = s.status := rfl
@[simp] theorem setMem_tbuf_faultcmd (s : State) (m : Memory) : (s.setMem .tbuf m).faultcmd = s.faultcmd := rfl
@[simp] theorem setMem_tbuf_chainMode (s : State) (m : Memory) : (s.setMem .tbuf m).chainMode = s.chainMode := rfl
@[simp] theorem setMem_tbuf_pbuf (s : State) (m : Memory) : (s.setMem .tbuf m).pbuf = s.pbuf := rfl
@[simp] theorem setMem_tbuf_tbuf (s : State) (m : Memory) : (s.setMem .tbuf m).tbuf = m := rfl
@[simp] theorem setMem_tbuf_ebuf (s : State) (m : Memory) : (s.setMem .tbuf m).ebuf = s.ebuf := rfl
@[simp] theorem setMem_tbuf_draws (s : State) (m : Memory) : (s.setMem .tbuf m).draws = s.draws := rfl
@[simp] theorem setMem_tbuf_pending (s : State) (m : Memory) : (s.setMem .tbuf m).pending = s.pending := rfl
@[simp] theorem setMem_tbuf_readLog (s : State) (m : Memory) : (s.setMem .tbuf m).readLog = s.readLog := rfl

/-! ### s.setMem .ebuf m -/

@[simp] theorem setMem_ebuf_crcAcc (s : State) (m : Memory) : (s.setMem .ebuf m).crcAcc = s.crcAcc := rfl
@[simp] theorem setMem_ebuf_bidx (s : State) (m : Memory) : (s.setMem .ebuf m).bidx = s.bidx := rfl
@[simp] theorem setMem_ebuf_bitcnt (s : State) (m : Memory) : (s.setMem .ebuf m).bitcnt = s.bitcnt := rfl
@[simp] theorem setMem_ebuf_trkfmt (s : State) (m : Memory) : (s.setMem .ebuf m).trkfmt = s.trkfmt := rfl
@[simp] theorem setMem_ebuf_status (s : State) (m : Memory) : (s.setMem .ebuf m).status = s.status := rfl
@[simp] theorem setMem_ebuf_faultcmd (s : State) (m : Memory) : (s.setMem .ebuf m).faultcmd = s.faultcmd := rfl
@[simp] theorem setMem_ebuf_chainMode (s : State) (m : Memory) : (s.setMem .ebuf m).chainMode = s.chainMode := rfl
@[simp] theorem setMem_ebuf_pbuf (s : State) (m : Memory) : (s.setMem .ebuf m).pbuf = s.pbuf := rfl
@[simp] theorem setMem_ebuf_tbuf (s : State) (m : Memory) : (s.setMem .ebuf m).tbuf = s.tbuf := rfl
@[simp] theorem setMem_ebuf_ebuf (s : State) (m : Memory) : (s.setMem .ebuf m).ebuf = m := rfl
@[simp] theorem setMem_ebuf_draws (s : State) (m : Memory) : (s.setMem .ebuf m).draws = s.draws := rfl
@[simp] theorem setMem_ebuf_pending (s : State) (m : Memory) : (s.setMem .ebuf m).pending = s.pending := rfl
@[simp] theorem setMem_ebuf_readLog (s : State) (m : Memory) : (s.setMem .ebuf m).readLog = s.readLog := rfl

/-! ### s.setCrcAcc v -/

@[simp] theorem setCrcAcc_crcAcc (s : State) (v : Word) : (s.setCrcAcc v).crcAcc = v := rfl
@[simp] theorem setCrcAcc_bidx (s : State) (v : Word) : (s.setCrcAcc v).bidx = s.bidx := rfl
@[simp] theorem setCrcAcc_bitcnt (s : State) (v : Word) : (s.setCrcAcc v).bitcnt = s.bitcnt := rfl
@[simp] theorem setCrcAcc_trkfmt (s : State) (v : Word) : (s.setCrcAcc v).trkfmt = s.trkfmt := rfl
@[simp] theorem setCrcAcc_status (s : State) (v : Word) : (s.setCrcAcc v).status = s.status := rfl
@[simp] theorem setCrcAcc_faultcmd (s : State) (v : Word) : (s.setCrcAcc v).faultcmd = s.faultcmd := rfl
@[simp] theorem setCrcAcc_chainMode (s : State) (v : Word) : (s.setCrcAcc v).chainMode = s.chainMode := rfl
@[simp] theorem setCrcAcc_pbuf (s : State) (v : Word) : (s.setCrcAcc v).pbuf = s.pbuf := rfl
@[simp] theorem setCrcAcc_tbuf (s : State) (v : Word) : (s.setCrcAcc v).tbuf = s.tbuf := rfl
@[simp] theorem setCrcAcc_ebuf (s : State) (v : Word) : (s.setCrcAcc v).ebuf = s.ebuf := rfl
@[simp] theorem setCrcAcc_draws (s : State) (v : Word) : (s.setCrcAcc v).draws = s.draws := rfl
@[simp] theorem setCrcAcc_pending (s : State) (v : Word) : (s.setCrcAcc v).pending = s.pending := rfl
@[simp] theorem setCrcAcc_readLog (s : State) (v : Word) : (s.setCrcAcc v).readLog = s.readLog := rfl

/-! ### s.setBidx n -/

@[simp] theorem setBidx_crcAcc (s : State) (n : Nat) : (s.setBidx n).crcAcc = s.crcAcc := rfl
@[simp] theorem setBidx_bidx (s : State) (n : Nat) : (s.setBidx n).bidx = BitVec.ofNat 32 n := rfl
@[simp] theorem setBidx_bitcnt (s : State) (n : Nat) : (s.setBidx n).bitcnt = s.bitcnt := rfl
@[simp] theorem setBidx_trkfmt (s : State) (n : Nat) : (s.setBidx n).trkfmt = s.trkfmt := rfl
@[simp] theorem setBidx_status (s : State) (n : Nat) : (s.setBidx n).status = s.status := rfl
@[simp] theorem setBidx_faultcmd (s : State) (n : Nat) : (s.setBidx n).faultcmd = s.faultcmd := rfl
@[simp] theorem setBidx_chainMode (s : State) (n : Nat) : (s.setBidx n).chainMode = s.chainMode := rfl
@[simp] theorem setBidx_pbuf (s : State) (n : Nat) : (s.setBidx n).pbuf = s.pbuf := rfl
@[simp] theorem setBidx_tbuf (s : State) (n : Nat) : (s.setBidx n).tbuf = s.tbuf := rfl
@[simp] theorem setBidx_ebuf (s : State) (n : Nat) : (s.setBidx n).ebuf = s.ebuf := rfl
@[simp] theorem setBidx_draws (s : State) (n : Nat) : (s.setBidx n).draws = s.draws := rfl
@[simp] theorem setBidx_pending (s : State) (n : Nat) : (s.setBidx n).pending = s.pending := rfl
@[simp] theorem setBidx_readLog (s : State) (n : Nat) : (s.setBidx n).readLog = s.readLog := rfl

/-! ### s.setTrack trk f -/

@[simp] theorem setTrack_crcAcc (s : State) (trk : Byte) (f : Interleave) : (s.setTrack trk f).crcAcc = s.crcAcc := rfl
@[simp] theorem setTrack_bidx (s : State) (trk : Byte) (f : Interleave) : (s.setTrack trk f).bidx = s.bidx := rfl
@[simp] theorem setTrack_bitcnt (s : State) (trk : Byte) (f : Interleave) : (s.setTrack trk f).bitcnt = s.bidx := rfl
@[simp] theorem setTrack_trkfmt (s : State) (trk : Byte) (f : Interleave) : (s.setTrack trk f).trkfmt = trkfmtWord trk f := rfl
@[simp] theorem setTrack_status (s : State) (trk : Byte) (f : Interleave) : (s.setTrack trk f).status = s.status := rfl
@[simp] theorem setTrack_faultcmd (s : State) (trk : Byte) (f : Interleave) : (s.setTrack trk f).faultcmd = s.faultcmd := rfl
@[simp] theorem setTrack_chainMode (s : State) (trk : Byte) (f : Interleave) : (s.setTrack trk f).chainMode = s.chainMode := rfl
@[simp] theorem setTrack_pbuf (s : State) (trk : Byte) (f : Interleave) : (s.setTrack trk f).pbuf = s.pbuf := rfl
@[simp] theorem setTrack_tbuf (s : State) (trk : Byte) (f : Interleave) : (s.setTrack trk f).tbuf = s.tbuf := rfl
@[simp] theorem setTrack_ebuf (s : State) (trk : Byte) (f : Interleave) : (s.setTrack trk f).ebuf = s.ebuf := rfl
@[simp] theorem setTrack_draws (s : State) (trk : Byte) (f : Interleave) : (s.setTrack trk f).draws = s.draws := rfl
@[simp] theorem setTrack_pending (s : State) (trk : Byte) (f : Interleave) : (s.setTrack trk f).pending = s.pending := rfl
@[simp] theorem setTrack_readLog (s : State) (trk : Byte) (f : Interleave) : (s.setTrack trk f).readLog = s.readLog := rfl

/-! ### s.logRead v -/

@[simp] theorem logRead_crcAcc (s : State) (v : HostValue) : (s.logRead v).crcAcc = s.crcAcc := rfl
@[simp] theorem logRead_bidx (s : State) (v : HostValue) : (s.logRead v).bidx = s.bidx := rfl
@[simp] theorem logRead_bitcnt (s : State) (v : HostValue) : (s.logRead v).bitcnt = s.bitcnt := rfl
@[simp] theorem logRead_trkfmt (s : State) (v : HostValue) : (s.logRead v).trkfmt = s.trkfmt := rfl
@[simp] theorem logRead_status (s : State) (v : HostValue) : (s.logRead v).status = s.status := rfl
@[simp] theorem logRead_faultcmd (s : State) (v : HostValue) : (s.logRead v).faultcmd = s.faultcmd := rfl
@[simp] theorem logRead_chainMode (s : State) (v : HostValue) : (s.logRead v).chainMode = s.chainMode := rfl
@[simp] theorem logRead_pbuf (s : State) (v : HostValue) : (s.logRead v).pbuf = s.pbuf := rfl
@[simp] theorem logRead_tbuf (s : State) (v : HostValue) : (s.logRead v).tbuf = s.tbuf := rfl
@[simp] theorem logRead_ebuf (s : State) (v : HostValue) : (s.logRead v).ebuf = s.ebuf := rfl
@[simp] theorem logRead_draws (s : State) (v : HostValue) : (s.logRead v).draws = s.draws := rfl
@[simp] theorem logRead_pending (s : State) (v : HostValue) : (s.logRead v).pending = s.pending := rfl
@[simp] theorem logRead_readLog (s : State) (v : HostValue) : (s.logRead v).readLog = v :: s.readLog := rfl

/-! ### s.countDraw -/

@[simp] theorem countDraw_crcAcc (s : State) : (s.countDraw).crcAcc = s.crcAcc := rfl
@[simp] theorem countDraw_bidx (s : State) : (s.countDraw).bidx = s.bidx := rfl
@[simp] theorem countDraw_bitcnt (s : State) : (s.countDraw).bitcnt = s.bitcnt := rfl
@[simp] theorem countDraw_trkfmt (s : State) : (s.countDraw).trkfmt = s.trkfmt := rfl
@[simp] theorem countDraw_status (s : State) : (s.countDraw).status = s.status := rfl
@[simp] theorem countDraw_faultcmd (s : State) : (s.countDraw).faultcmd = s.faultcmd := rfl
@[simp] theorem countDraw_chainMode (s : State) : (s.countDraw).chainMode = s.chainMode := rfl
@[simp] theorem countDraw_pbuf (s : State) : (s.countDraw).pbuf = s.pbuf := rfl
@[simp] theorem countDraw_tbuf (s : State) : (s.countDraw).tbuf = s.tbuf := rfl
@[simp] theorem countDraw_ebuf (s : State) : (s.countDraw).ebuf = s.ebuf := rfl
@[simp] theorem countDraw_draws (s : State) : (s.countDraw).draws = s.draws + 1 := rfl
@[simp] theorem countDraw_pending (s : State) : (s.countDraw).pending = s.pending := rfl
@[simp] theorem countDraw_readLog (s : State) : (s.countDraw).readLog = s.readLog := rfl

/-! ### s.pushAction act -/

@[simp] theorem pushAction_crcAcc (s : State) (act : HostAction) : (s.pushAction act).crcAcc = s.crcAcc := rfl
@[simp] theorem pushAction_bidx (s : State) (act : HostAction) : (s.pushAction act).bidx = s.bidx := rfl
@[simp] theorem pushAction_bitcnt (s : State) (act : HostAction) : (s.pushAction act).bitcnt = s.bitcnt := rfl
@[simp] theorem pushAction_trkfmt (s : State) (act : HostAction) : (s.pushAction act).trkfmt = s.trkfmt := rfl
@[simp] theorem pushAction_status (s : State) (act : HostAction) : (s.pushAction act).status = s.status := rfl
@[simp] theorem pushAction_faultcmd (s : State) (act : HostAction) : (s.pushAction act).faultcmd = s.faultcmd := rfl
@[simp] theorem pushAction_chainMode (s : State) (act : HostAction) : (s.pushAction act).chainMode = s.chainMode := rfl
@[simp] theorem pushAction_pbuf (s : State) (act : HostAction) : (s.pushAction act).pbuf = s.pbuf := rfl
@[simp] theorem pushAction_tbuf (s : State) (act : HostAction) : (s.pushAction act).tbuf = s.tbuf := rfl
@[simp] theorem pushAction_ebuf (s : State) (act : HostAction) : (s.pushAction act).ebuf = s.ebuf := rfl
@[simp] theorem pushAction_draws (s : State) (act : HostAction) : (s.pushAction act).draws = s.draws := rfl
@[simp] theorem pushAction_pending (s : State) (act : HostAction) : (s.pushAction act).pending = act :: s.pending := rfl
@[simp] theorem pushAction_readLog (s : State) (act : HostAction) : (s.pushAction act).readLog = s.readLog := rfl

/-! ### enterFault c cmd s -/

@[simp] theorem enterFault_crcAcc (c : FaultCode) (cmd : Word) (s : State) : (enterFault c cmd s).crcAcc = s.crcAcc := rfl
@[simp] theorem enterFault_bidx (c : FaultCode) (cmd : Word) (s : State) : (enterFault c cmd s).bidx = s.bidx := rfl
@[simp] theorem enterFault_bitcnt (c : FaultCode) (cmd : Word) (s : State) : (enterFault c cmd s).bitcnt = s.bitcnt := rfl
@[simp] theorem enterFault_trkfmt (c : FaultCode) (cmd : Word) (s : State) : (enterFault c cmd s).trkfmt = s.trkfmt := rfl
@[simp] theorem enterFault_status (c : FaultCode) (cmd : Word) (s : State) : (enterFault c cmd s).status = statusWord c := rfl
@[simp] theorem enterFault_faultcmd (c : FaultCode) (cmd : Word) (s : State) : (enterFault c cmd s).faultcmd = cmd := rfl
@[simp] theorem enterFault_chainMode (c : FaultCode) (cmd : Word) (s : State) : (enterFault c cmd s).chainMode = s.chainMode := rfl
@[simp] theorem enterFault_pbuf (c : FaultCode) (cmd : Word) (s : State) : (enterFault c cmd s).pbuf = s.pbuf := rfl
@[simp] theorem enterFault_tbuf (c : FaultCode) (cmd : Word) (s : State) : (enterFault c cmd s).tbuf = s.tbuf := rfl
@[simp] theorem enterFault_ebuf (c : FaultCode) (cmd : Word) (s : State) : (enterFault c cmd s).ebuf = s.ebuf := rfl
@[simp] theorem enterFault_draws (c : FaultCode) (cmd : Word) (s : State) : (enterFault c cmd s).draws = s.draws := rfl
@[simp] theorem enterFault_pending (c : FaultCode) (cmd : Word) (s : State) : (enterFault c cmd s).pending = s.pending := rfl
@[simp] theorem enterFault_readLog (c : FaultCode) (cmd : Word) (s : State) : (enterFault c cmd s).readLog = s.readLog := rfl

/-! ### resetEngine s -/

@[simp] theorem resetEngine_crcAcc (s : State) : (resetEngine s).crcAcc = crcInitValue := rfl
@[simp] theorem resetEngine_bidx (s : State) : (resetEngine s).bidx = 0#32 := rfl
@[simp] theorem resetEngine_bitcnt (s : State) : (resetEngine s).bitcnt = 0#32 := rfl
@[simp] theorem resetEngine_trkfmt (s : State) : (resetEngine s).trkfmt = 0#32 := rfl
@[simp] theorem resetEngine_status (s : State) : (resetEngine s).status = 0#32 := rfl
@[simp] theorem resetEngine_faultcmd (s : State) : (resetEngine s).faultcmd = 0#32 := rfl
@[simp] theorem resetEngine_chainMode (s : State) : (resetEngine s).chainMode = s.chainMode := rfl
@[simp] theorem resetEngine_pbuf (s : State) : (resetEngine s).pbuf = [] := rfl
@[simp] theorem resetEngine_tbuf (s : State) : (resetEngine s).tbuf = [] := rfl
@[simp] theorem resetEngine_ebuf (s : State) : (resetEngine s).ebuf = [] := rfl
@[simp] theorem resetEngine_draws (s : State) : (resetEngine s).draws = s.draws := rfl
@[simp] theorem resetEngine_pending (s : State) : (resetEngine s).pending = s.pending := rfl
@[simp] theorem resetEngine_readLog (s : State) : (resetEngine s).readLog = s.readLog := rfl

end Sys2Proof.Machine
end

