-- ==== Sys2Proof/Laws/Ops.lean ====
section
/-! SUPPORT. For each shared operation, once, everything it can do. -/

namespace Sys2Proof.Machine

/-! ### Engine access primitives (R53) -/

theorem memRead_eq_ok {sp : Space} {a : Nat} {s : State} {v : Byte} :
    memRead sp a s = .ok v ↔ Memory.read (s.mem sp) a = some v := by
  unfold memRead; split <;> simp_all

theorem memRead_eq_error {sp : Space} {a : Nat} {s : State} {e : Stop} :
    memRead sp a s = .error e ↔ Memory.read (s.mem sp) a = none ∧ e = .undefRead sp a := by
  unfold memRead; cases Memory.read (s.mem sp) a <;> simp [eq_comm]

/-- A range read gives the bytes in order when all are defined. -/
theorem readRange_eq_ok {sp : Space} {a n : Nat} {s : State} {vs : List Byte} :
    readRange sp a n s = .ok vs ↔
      vs.length = n ∧ ∀ k (h : k < vs.length), Memory.read (s.mem sp) (a + k) = some vs[k] := by
  induction n generalizing a vs with
  | zero =>
    simp only [readRange, Except.ok.injEq]
    constructor
    · rintro rfl; simp
    · rintro ⟨h, -⟩; exact (List.length_eq_zero_iff.mp h).symm
  | succ n ih =>
    simp only [readRange]
    constructor
    · intro h
      cases hm : memRead sp a s with
      | error e => simp [hm] at h
      | ok v =>
        cases hr : readRange sp (a + 1) n s with
        | error e => simp [hm, hr] at h
        | ok ws =>
          simp only [hm, hr, Except.ok.injEq] at h
          subst h
          obtain ⟨hl, hk⟩ := ih.mp hr
          refine ⟨by simp [hl], fun k h => ?_⟩
          cases k with
          | zero => simpa using memRead_eq_ok.mp hm
          | succ k => simpa [Nat.add_assoc, Nat.add_comm 1 k] using hk k (by simpa using h)
    · rintro ⟨hl, hk⟩
      cases vs with
      | nil => simp at hl
      | cons v ws =>
        have hm : memRead sp a s = .ok v := memRead_eq_ok.mpr (hk 0 (by simp))
        have hr : readRange sp (a + 1) n s = .ok ws :=
          ih.mpr ⟨by simpa using hl, fun k h => by
            rw [Nat.add_assoc, Nat.add_comm 1 k]
            exact hk (k + 1) (by simpa using h)⟩
        simp [hm, hr]

/-- A range read that stops names its first undefined byte. -/
theorem readRange_eq_error {sp : Space} {a n : Nat} {s : State} {e : Stop} (h : readRange sp a n s = .error e) :
    ∃ k, k < n ∧ e = .undefRead sp (a + k) ∧ Memory.read (s.mem sp) (a + k) = none ∧
      ∀ j, j < k → (Memory.read (s.mem sp) (a + j)).isSome := by
  induction n generalizing a with
  | zero => simp [readRange] at h
  | succ n ih =>
    simp only [readRange] at h
    cases hm : memRead sp a s with
    | error e' =>
      simp only [hm, Except.error.injEq] at h
      obtain ⟨h1, h2⟩ := memRead_eq_error.mp hm
      exact ⟨0, by omega, by simp [← h, h2], by simpa using h1, by omega⟩
    | ok v =>
      cases hr : readRange sp (a + 1) n s with
      | ok ws => simp [hm, hr] at h
      | error e' =>
        simp only [hm, hr, Except.error.injEq] at h
        obtain ⟨k, hk, he, hnone, hsome⟩ := ih (h ▸ hr)
        refine ⟨k + 1, by omega, by rw [he]; congr 1; omega, by rw [← hnone]; congr 1; omega, fun j hj => ?_⟩
        cases j with
        | zero => simp [memRead_eq_ok.mp hm]
        | succ j =>
          have := hsome j (by omega)
          rwa [show a + (j + 1) = a + 1 + j by omega]

/-- A range read stops at the first undefined byte of its range (R207). -/
theorem readRange_of_first_undefined {sp : Space} {a n k : Nat} {s : State} (hk : k < n)
    (hnone : Memory.read (s.mem sp) (a + k) = none) (hsome : ∀ j, j < k → (Memory.read (s.mem sp) (a + j)).isSome = true) :
    readRange sp a n s = .error (.undefRead sp (a + k)) := by
  cases h : readRange sp a n s with
  | ok vs =>
    obtain ⟨hl, hv⟩ := readRange_eq_ok.mp h
    simp [hv k (by omega)] at hnone
  | error e =>
    obtain ⟨k', -, rfl, hnone', hsome'⟩ := readRange_eq_error h
    obtain hlt | rfl | hlt := Nat.lt_trichotomy k k'
    · exact absurd (hsome' k hlt) (by simp [hnone])
    · rfl
    · exact absurd (hsome k' hlt) (by simp [hnone'])

@[simp] theorem mem_memWrite_same (sp : Space) (a : Nat) (v : Byte) (s : State) :
    (memWrite sp a v s).mem sp = Memory.write (s.mem sp) a v := by simp [memWrite]

@[simp] theorem mem_memOr_same (sp : Space) (a : Nat) (v : Byte) (s : State) :
    (memOr sp a v s).mem sp = Memory.or (s.mem sp) a v := by simp [memOr]

/-- A list of bytes written to a RAM changes that RAM alone. -/
theorem writeRange_eq_setMem (sp : Space) (a : Nat) (vs : List Byte) (s : State) :
    writeRange sp a vs s = s.setMem sp ((writeRange sp a vs s).mem sp) := by
  induction vs generalizing a s with
  | nil => simp [writeRange]
  | cons v vs ih =>
    rw [writeRange, ih]
    simp [memWrite]

/-- What a RAM reads after a list of bytes is written from address a. -/
theorem read_writeRange (sp : Space) (a : Nat) (vs : List Byte) (s : State) (b : Nat) :
    Memory.read ((writeRange sp a vs s).mem sp) b =
      if h : a ≤ b ∧ b - a < vs.length then some (vs[b - a]'h.2) else Memory.read (s.mem sp) b := by
  induction vs generalizing a s with
  | nil => simp [writeRange]
  | cons v vs ih =>
    rw [writeRange, ih]
    by_cases hb : b = a
    · subst b; simp
    · by_cases hlt : a + 1 ≤ b
      · have e : b - a = (b - (a + 1)) + 1 := by omega
        by_cases hin : b - (a + 1) < vs.length
        · rw [dif_pos ⟨hlt, hin⟩, dif_pos ⟨by omega, by simp; omega⟩]
          simp [e]
        · rw [dif_neg (by omega), dif_neg (by simp; omega)]
          simp [read_write_other _ _ _ _ hb]
      · rw [dif_neg (by omega), dif_neg (by omega)]
        simp [read_write_other _ _ _ _ hb]

/-! ### Sequencing -/

theorem andThen_eq_ok {f g : State → Except Stop State} {s u : State} :
    andThen f g s = .ok u ↔ ∃ t, f s = .ok t ∧ g t = .ok u := by
  unfold andThen; split <;> simp_all

theorem andThen_eq_error {f g : State → Except Stop State} {s : State} {e : Stop} :
    andThen f g s = .error e ↔ f s = .error e ∨ ∃ t, f s = .ok t ∧ g t = .error e := by
  unfold andThen; split <;> simp_all

@[simp] theorem repeated_zero (act : State → Except Stop State) (s : State) : repeated 0 act s = .ok s := rfl

theorem repeated_succ (n : Nat) (act : State → Except Stop State) : repeated (n + 1) act = andThen act (repeated n act) := rfl

@[simp] theorem forEach_nil {α : Type} (act : α → State → Except Stop State) (s : State) : forEach act [] s = .ok s := rfl

theorem forEach_cons {α : Type} (act : α → State → Except Stop State) (x : α) (xs : List α) :
    forEach act (x :: xs) = andThen (act x) (forEach act xs) := rfl

/-- A loop over a list is the loop over its front and then the loop over the rest. -/
theorem forEach_append {α : Type} (act : α → State → Except Stop State) (xs ys : List α) (s : State) :
    forEach act (xs ++ ys) s = andThen (forEach act xs) (forEach act ys) s := by
  induction xs generalizing s with
  | nil => rfl
  | cons x xs ih =>
    simp only [List.cons_append, forEach_cons, andThen]
    cases act x s with
    | error e => rfl
    | ok t => exact ih t

/-- A property every action keeps is kept by the whole loop. -/
theorem forEach_keeps {α : Type} {act : α → State → Except Stop State} {P : State → Prop} {xs : List α}
    (hstep : ∀ x ∈ xs, ∀ s t, P s → act x s = .ok t → P t) {s u : State} (hs : P s) (h : forEach act xs s = .ok u) : P u := by
  induction xs generalizing s with
  | nil => simp only [forEach_nil, Except.ok.injEq] at h; exact h ▸ hs
  | cons x xs ih =>
    obtain ⟨t, h1, h2⟩ := andThen_eq_ok.mp h
    exact ih (fun y hy => hstep y (List.mem_cons_of_mem _ hy)) (hstep x (List.mem_cons_self) s t hs h1) h2

theorem repeated_keeps {act : State → Except Stop State} {P : State → Prop} (n : Nat)
    (hstep : ∀ s t, P s → act s = .ok t → P t) {s u : State} (hs : P s) (h : repeated n act s = .ok u) : P u := by
  induction n generalizing s with
  | zero => simp only [repeated_zero, Except.ok.injEq] at h; exact h ▸ hs
  | succ n ih =>
    obtain ⟨t, h1, h2⟩ := andThen_eq_ok.mp h
    exact ih (hstep s t hs h1) h2

/-! ### How a command ends (R203, R206) -/

theorem complete_eq_next {i : Instr} {s u : State} {r : Except Stop State} :
    complete i s r = .next u ↔ r = .ok u ∨ ∃ c, r = .error (.raised c) ∧ u = enterFault c (encode i) s := by
  unfold complete; split <;> simp [eq_comm]

theorem complete_eq_fault {i : Instr} {s : State} {r : Except Stop State} {x : Fault} :
    complete i s r = .fault x ↔ ∃ sp a, r = .error (.undefRead sp a) ∧ x = .undefRead sp a := by
  unfold complete; split <;> simp_all [eq_comm]

theorem complete_ne_refused (i : Instr) (s : State) (r : Except Stop State) (x : Refusal) :
    complete i s r ≠ .refused x := by
  unfold complete; split <;> simp

/-! ### The checks (R102, R121) -/

theorem checkCapacity_eq_ok {n : Nat} {s t : State} :
    checkCapacity n s = .ok t ↔ s.bidx.toNat + n ≤ capBits ∧ t = s := by
  unfold checkCapacity; split <;> simp_all [eq_comm]

theorem checkCapacity_eq_error {n : Nat} {s : State} {e : Stop} :
    checkCapacity n s = .error e ↔ s.bidx.toNat + n > capBits ∧ e = .raised .capacity := by
  unfold checkCapacity; split <;> simp_all [eq_comm]

theorem checkRange_eq_ok {sp : Space} {a b : BitVec 13} {s t : State} :
    checkRange sp a b s = .ok t ↔ rangeStart a + rangeLength b ≤ sp.size ∧ t = s := by
  unfold checkRange; split <;> simp_all [eq_comm]

theorem checkRange_eq_error {sp : Space} {a b : BitVec 13} {s : State} {e : Stop} :
    checkRange sp a b s = .error e ↔ rangeStart a + rangeLength b > sp.size ∧ e = .raised .range := by
  unfold checkRange; split <;> simp_all [eq_comm]

/-! ### The Bit Writer (R122) -/

/-- `put8` changes TBUF alone. -/
theorem put8_eq_setMem (idx : Nat) (v : Byte) (s : State) :
    put8 idx v s = s.setMem .tbuf ((put8 idx v s).mem .tbuf) := by
  unfold put8; dsimp only; split <;> simp [memOr]

/-- What one TBUF byte reads after `put8`. -/
theorem read_put8 (idx : Nat) (v : Byte) (s : State) (a : Nat) :
    Memory.read (put8 idx v s).tbuf a =
      if a = idx / 8 then (Memory.read s.tbuf a).map (· ||| v >>> (idx % 8))
      else if a = idx / 8 + 1 ∧ idx % 8 ≠ 0 then (Memory.read s.tbuf a).map (· ||| v <<< (8 - idx % 8))
      else Memory.read s.tbuf a := by
  unfold put8
  dsimp only
  split
  · simp [memOr, read_or, *]
  · simp only [memOr, setMem_tbuf_tbuf, mem_tbuf, read_or, *]
    split
    · rw [if_neg (by omega)]
      simp [*]
    · simp_all

/-- `putByte` changes BIDX and TBUF alone. -/
theorem putByte_eq (v : Byte) (s : State) :
    putByte v s = (s.setMem .tbuf (put8 s.bidx.toNat v s).tbuf).setBidx (s.bidx.toNat + 8) := by
  unfold putByte advance
  rw [put8_eq_setMem]
  simp

@[simp] theorem putByte_bidx (v : Byte) (s : State) : (putByte v s).bidx = BitVec.ofNat 32 (s.bidx.toNat + 8) := by
  rw [putByte_eq]; simp

@[simp] theorem putByte_tbuf (v : Byte) (s : State) : (putByte v s).tbuf = (put8 s.bidx.toNat v s).tbuf := by
  rw [putByte_eq]; simp

/-- The body of BW_BYTE: the byte is put when it fits, and CAPACITY otherwise. -/
theorem byteBody_eq (v : Byte) (s : State) :
    byteBody v s = if s.bidx.toNat + 8 > capBits then .error (.raised .capacity) else .ok (putByte v s) := by
  unfold byteBody andThen checkCapacity
  by_cases h : s.bidx.toNat + 8 > capBits <;> simp [h]

theorem w44Body_eq (v : Byte) (s : State) :
    w44Body v s =
      if s.bidx.toNat + 16 > capBits then .error (.raised .capacity)
      else .ok (putByte (fourAndFourEven v) (putByte (fourAndFourOdd v) s)) := by
  unfold w44Body andThen checkCapacity
  by_cases h : s.bidx.toNat + 16 > capBits <;> simp [h]

theorem syncBody_eq (s : State) :
    syncBody s =
      if s.bidx.toNat + 10 > capBits then .error (.raised .capacity)
      else .ok (advance syncSlackBits (putByte syncByte s)) := by
  unfold syncBody andThen checkCapacity syncSlackBits
  by_cases h : s.bidx.toNat + 10 > capBits <;> simp [h]

/-! ### Clearing TBUF (R128) -/

theorem read_clearTbuf (s : State) (a : Nat) :
    Memory.read (clearTbuf s).tbuf a = if a < tbufBytes then some 0#8 else none := by
  simp [clearTbuf, read_filled]

/-! ### The step -/

theorem step_of_pending {s : State} {act : HostAction} {rest : List HostAction} (h : s.pending = act :: rest) :
    step s = hostStep act { s with pending := rest } := by
  simp [step, engineStep, nextAction, h]

theorem step_idle {s : State} (h : s.pending = []) : step s = .next s := by
  simp [step, engineStep, nextAction, h]

theorem step_withFetchWord (s : State) (nbits w : Nat) :
    step (s.withFetchWord nbits w) = hostStep (.write32 cmdAddr (BitVec.ofNat 32 (w % 2 ^ nbits))) s := by
  rw [State.withFetchWord, step_of_pending (rest := s.pending) rfl]
  rfl

end Sys2Proof.Machine
end

