-- ==== Sys2Proof/Laws/BitWriter.lean ====
section
/-! SUPPORT. The Bit Writer bit by bit (spec/41_bit_writer.md R122, R123): where `put8` puts each bit, and what the loops over it
keep. -/

namespace Sys2Proof.Machine

/-- The bits of TBUF after `put8`: those at idx..idx+7 are ORed with the value, most significant bit first; the others stay. -/
theorem bit_put8 (idx : Nat) (v : Byte) (s : State) (k : Nat) :
    Memory.bit (put8 idx v s).tbuf k =
      if idx ≤ k ∧ k < idx + 8 then (Memory.bit s.tbuf k).map (· || v.getLsbD (7 - (k - idx))) else Memory.bit s.tbuf k := by
  simp only [Memory.bit, read_put8]
  by_cases h1 : k / 8 = idx / 8
  · rw [if_pos h1]
    by_cases hin : idx ≤ k ∧ k < idx + 8
    · rw [if_pos hin]
      have e : idx % 8 + (7 - k % 8) = 7 - (k - idx) := by omega
      cases Memory.read s.tbuf (k / 8) with
      | none => rfl
      | some x => simp only [Option.map_some, BitVec.getLsbD_or, BitVec.getLsbD_ushiftRight, e]
    · rw [if_neg hin]
      have e : 8 ≤ idx % 8 + (7 - k % 8) := by omega
      cases Memory.read s.tbuf (k / 8) <;> simp [BitVec.getLsbD_of_ge v _ e]
  · rw [if_neg h1]
    by_cases h2 : k / 8 = idx / 8 + 1 ∧ idx % 8 ≠ 0
    · rw [if_pos h2]
      by_cases hin : idx ≤ k ∧ k < idx + 8
      · rw [if_pos hin]
        have e : 7 - k % 8 - (8 - idx % 8) = 7 - (k - idx) := by omega
        have e2 : ¬ (7 - k % 8 < 8 - idx % 8) := by omega
        have e3 : 7 - k % 8 < 8 := by omega
        cases Memory.read s.tbuf (k / 8) with
        | none => rfl
        | some x =>
          simp only [Option.map_some, BitVec.getLsbD_or, BitVec.getLsbD_shiftLeft, e, e2, e3, decide_true, decide_false,
            Bool.not_false, Bool.true_and]
      · rw [if_neg hin]
        have e2 : 7 - k % 8 < 8 - idx % 8 := by omega
        cases Memory.read s.tbuf (k / 8) <;> simp [e2]
    · rw [if_neg h2, if_neg (by omega)]

end Sys2Proof.Machine
end

