-- ==== Sys2Proof/Laws/Decode.lean ====
section
/-! SUPPORT. The fields of an encoded word, for each format of spec/30_encoding.md R72. -/

namespace Sys2Proof

/-- The low part of a word made of two parts. -/
theorem low_of_append {h l : Nat} (x : BitVec h) (y : BitVec l) : (x ++ y).extractLsb' 0 l = y := by
  apply BitVec.eq_of_getLsbD_eq
  intro k hk
  simp [BitVec.getLsbD_append, hk]

/-- The high part of a word made of two parts. -/
theorem high_of_append {h l : Nat} (x : BitVec h) (y : BitVec l) : (x ++ y).extractLsb' l h = x := by
  apply BitVec.eq_of_getLsbD_eq
  intro k hk
  simp [BitVec.getLsbD_append, hk]

/-- A field that lies in the high part of a word made of two parts. -/
theorem field_of_append_high {h l lo n : Nat} (x : BitVec h) (y : BitVec l) :
    (x ++ y).extractLsb' (l + lo) n = x.extractLsb' lo n := by
  apply BitVec.eq_of_getLsbD_eq
  intro k hk
  simp [BitVec.getLsbD_append, Nat.add_assoc, hk]

/-! ### The opcode field (R71) -/

theorem opField_z (op : BitVec 6) (r : BitVec 26) : opField (op ++ r) = op := high_of_append op r

theorem opField_i8 (op : BitVec 6) (r : BitVec 18) (v : BitVec 8) : opField (op ++ r ++ v) = op := by
  rw [opField, show (26 : Nat) = 8 + 18 from rfl, field_of_append_high]
  exact high_of_append op r

theorem opField_r (op : BitVec 6) (a b : BitVec 13) : opField (op ++ a ++ b) = op := by
  rw [opField, show (26 : Nat) = 13 + 13 from rfl, field_of_append_high]
  exact high_of_append op a

theorem opField_s (op : BitVec 6) (r : BitVec 22) (l : BitVec 4) : opField (op ++ r ++ l) = op := by
  rw [opField, show (26 : Nat) = 4 + 22 from rfl, field_of_append_high]
  exact high_of_append op r

theorem opField_t (op : BitVec 6) (r : BitVec 17) (f : BitVec 1) (trk : BitVec 8) : opField (op ++ r ++ f ++ trk) = op := by
  rw [opField, show (26 : Nat) = 8 + (1 + 17) from rfl, field_of_append_high, field_of_append_high]
  exact high_of_append op r

/-- An interleave format and its bit F (R73). -/
@[simp] theorem interleaveOfBit_bitOfInterleave (f : Interleave) : interleaveOfBit (bitOfInterleave f) = f := by
  cases f <;> rfl

@[simp] theorem bitOfInterleave_interleaveOfBit (b : BitVec 1) : bitOfInterleave (interleaveOfBit b) = b := by
  revert b; decide

end Sys2Proof
end

