-- ==== Sys2Proof/Laws/PerInstr.lean ====
section
/-! SUPPORT. A statement made for every command, one lemma per constructor: each word carries the opcode of its row. -/

namespace Sys2Proof.Laws

/-- The opcode of each command, the OP column of spec/30_encoding.md R74. -/
def opcodeOf : Instr → BitVec 6
  | .nop => 0x00#6
  | .crcInit => 0x01#6
  | .crcByte _ => 0x02#6
  | .crcTbuf _ _ => 0x03#6
  | .crcPbuf _ _ => 0x04#6
  | .bwSetidx _ => 0x08#6
  | .bwByte _ => 0x09#6
  | .bw4and4 _ => 0x0A#6
  | .bwSync => 0x0B#6
  | .bwClear => 0x0C#6
  | .seEncode _ => 0x10#6
  | .seEmit => 0x11#6
  | .teEncode _ _ => 0x18#6

namespace OpcodeField

/-- The word of a command has its row's opcode in bits [31:26] (R71, R74). -/
def Statement (i : Instr) : Prop := opField (encode i) = opcodeOf i

theorem nop : Statement .nop := opField_z _ _
theorem crcInit : Statement .crcInit := opField_z _ _
theorem crcByte (imm8 : Byte) : Statement (.crcByte imm8) := opField_i8 _ _ _
theorem crcTbuf (a b : BitVec 13) : Statement (.crcTbuf a b) := opField_r _ _ _
theorem crcPbuf (a b : BitVec 13) : Statement (.crcPbuf a b) := opField_r _ _ _
theorem bwSetidx (imm26 : BitVec 26) : Statement (.bwSetidx imm26) := opField_z _ _
theorem bwByte (imm8 : Byte) : Statement (.bwByte imm8) := opField_i8 _ _ _
theorem bw4and4 (imm8 : Byte) : Statement (.bw4and4 imm8) := opField_i8 _ _ _
theorem bwSync : Statement .bwSync := opField_z _ _
theorem bwClear : Statement .bwClear := opField_z _ _
theorem seEncode (l : BitVec 4) : Statement (.seEncode l) := opField_s _ _ _
theorem seEmit : Statement .seEmit := opField_z _ _
theorem teEncode (trk : Byte) (f : Interleave) : Statement (.teEncode trk f) := opField_t _ _ _ _

end OpcodeField

end Sys2Proof.Laws
end

