-- ==== Sys2Proof/Laws/Sector.lean ====
section
/-! SUPPORT. The arrays of the Sector Content Encoder: their lengths. -/

namespace Sys2Proof.Machine

@[simp] theorem lowBits_length (p : List Byte) : (lowBits p).length = 86 := by simp [lowBits]

@[simp] theorem highBits_length (p : List Byte) : (highBits p).length = 256 := by simp [highBits]

@[simp] theorem sweepDown_length (lo n : Nat) (out6 : List Byte) : (sweepDown lo n out6).length = out6.length := by
  induction n generalizing out6 with
  | zero => rfl
  | succ n ih => rw [sweepDown, ih]; simp

@[simp] theorem chain_length (mode : ChainMode) (q : List Byte) : (chain mode q).length = q.length + 1 := by
  cases mode <;> simp [chain]

end Sys2Proof.Machine
end

