-- ==== Sys2Proof/Tests/Slice0.lean ====
section
/-! SUPPORT. Tests of the model's own: words written out from the spec's encodings, single steps checked against
spec/95_test_vectors.md, ill-formed terms that the checks refuse, and a witness for the hypotheses of every statement. -/

namespace Sys2Proof.Tests
open Sys2Proof Sys2Proof.Machine

/-- The next state of an outcome, none where it stops. -/
def nextOf : Host.Outcome State Fault Refusal → Option State
  | .next t => some t
  | _ => none

/-- A reset state with a TBUF of n zero bytes and the cursor at a bit. -/
def writerAt (n bit : Nat) : State :=
  { State.reset with tbuf := Memory.filled n 0#8, bidx := BitVec.ofNat 32 bit }

/-- The first n bytes of TBUF after an outcome. -/
def tbufAfter (n : Nat) (o : Host.Outcome State Fault Refusal) : Option (List (Option Byte)) :=
  (nextOf o).map (fun t => (List.range n).map (Memory.read t.tbuf))

/-- A reset state whose first n PBUF bytes are defined and 0. -/
def loaded (n : Nat) : State := { State.reset with pbuf := Memory.filled n 0#8 }

/-- A reset state whose first n EBUF bytes are defined and 0, with the cursor at a bit. -/
def emitterAt (n bit : Nat) : State :=
  { State.reset with ebuf := Memory.filled n 0#8, bidx := BitVec.ofNat 32 bit }

/-- A reset state with one host interaction pending. -/
def pendingOne (act : HostAction) : State := { State.reset with pending := [act] }

/-- A state in which a CAPACITY fault is recorded (vector D8's start), with one interaction pending. -/
def faulted (act : HostAction) : State := { pendingOne act with status := 0x201#32, faultcmd := 0x24000001#32 }

/-! ### Decoding: each command's word, written from the bits of R72 to R74 -/

theorem test_decode_nop : decode 0b00000000000000000000000000000000#32 = .ok .nop := rfl
theorem test_decode_crcInit : decode 0b00000100000000000000000000000000#32 = .ok .crcInit := rfl
theorem test_decode_crcByte : decode 0b00001000000000000000000010010110#32 = .ok (.crcByte 0x96#8) := rfl
theorem test_decode_crcTbuf : decode 0b00001100000011001000000101010111#32 = .ok (.crcTbuf 100#13 343#13) := rfl
theorem test_decode_crcPbuf : decode 0b00010011111111111110000000000001#32 = .ok (.crcPbuf 8191#13 1#13) := rfl
theorem test_decode_bwSetidx : decode 0b00100010000000001100111111111001#32 = .ok (.bwSetidx 0x200CFF9#26) := rfl
theorem test_decode_bwByte : decode 0b00100100000000000000000011010101#32 = .ok (.bwByte 0xD5#8) := rfl
theorem test_decode_bw4and4 : decode 0b00101000000000000000000011111110#32 = .ok (.bw4and4 254#8) := rfl
theorem test_decode_bwSync : decode 0b00101100000000000000000000000000#32 = .ok .bwSync := rfl
theorem test_decode_bwClear : decode 0b00110000000000000000000000000000#32 = .ok .bwClear := rfl
theorem test_decode_seEncode : decode 0b01000000000000000000000000001110#32 = .ok (.seEncode 14#4) := rfl
theorem test_decode_seEmit : decode 0b01000100000000000000000000000000#32 = .ok .seEmit := rfl
theorem test_decode_teEncode : decode 0b01100000000000000000000100010001#32 = .ok (.teEncode 17#8 .alternate) := rfl
theorem test_decode_reserved_op : decode 0x14000000#32 = .error .reservedOp := rfl
theorem test_decode_reserved_op_top : decode 0xFC000000#32 = .error .reservedOp := rfl
theorem test_decode_reserved_bits : decode 0x60000200#32 = .error .reservedBits := rfl
theorem test_decodeTableWord : decodeTableWord 32 0x0C0018B9 = some (.crcTbuf 0#13 6329#13) := rfl

/-! ### WellFormed: an ill-formed term for each check, refused -/

theorem test_word_reserved_op : wordLegal 0x14000000#32 = false := by decide
theorem test_word_reserved_bit_z : wordLegal 0x00000001#32 = false := by decide
theorem test_word_reserved_bit_i8 : wordLegal 0x08000100#32 = false := by decide
theorem test_word_reserved_bit_s : wordLegal 0x40000010#32 = false := by decide
theorem test_word_reserved_bit_t : wordLegal 0x60000200#32 = false := by decide
theorem test_line_i8_too_big : Source.wellFormed ⟨.bwByte, [256]⟩ = false := by decide
theorem test_line_r_start_too_big : Source.wellFormed ⟨.crcTbuf, [8192, 0]⟩ = false := by decide
theorem test_line_r_length_too_big : Source.wellFormed ⟨.crcPbuf, [0, 8192]⟩ = false := by decide
theorem test_line_x26_too_big : Source.wellFormed ⟨.bwSetidx, [67108864]⟩ = false := by decide
theorem test_line_s_too_big : Source.wellFormed ⟨.seEncode, [16]⟩ = false := by decide
theorem test_line_t_track_too_big : Source.wellFormed ⟨.teEncode, [256, 0]⟩ = false := by decide
theorem test_line_t_format_too_big : Source.wellFormed ⟨.teEncode, [0, 2]⟩ = false := by decide
theorem test_line_wrong_count : Source.wellFormed ⟨.nop, [0]⟩ = false := by decide
theorem test_access_w32_ram : accessAllowed .w32 0x2000#16 = false := by decide
theorem test_access_w8_register : accessAllowed .w8 0x5004#16 = false := by decide
theorem test_access_w16_mapped : accessAllowed .w16 0x5004#16 = false := by decide
theorem test_access_w32_misaligned : accessAllowed .w32 0x5002#16 = false := by decide
theorem test_access_straddling : accessAllowed .w16 0x1FFF#16 = false := by decide
theorem test_access_allowed : accessAllowed .w32 0x5020#16 = true ∧ accessAllowed .w8 0x4156#16 = true := by decide
theorem test_formats_agree : opcodeMap.all (fun r => r.mnemonic.format == r.format) = true := by decide

/-! ### Assembler text (R77 to R79) -/

theorem test_asm_track : assembleLine "TE_ENCODE 17, alternate ; track 17" = some [.write32 0x5000#16 0x60000111#32] := by
  decide +kernel
theorem test_asm_hex : assembleLine "BW_BYTE 0xD5" = some [.write32 0x5000#16 0x240000D5#32] := by decide +kernel
theorem test_asm_refused : assembleLine "BW_BYTE 256" = none := by decide +kernel
theorem test_asm_pseudo : assembleLine "CRC32_TBUF 0, 6329" =
    some [.write32 0x5000#16 0x04000000#32, .write32 0x5000#16 0x0C0018B9#32] := by decide +kernel
theorem test_asm_host : assembleLine "WR8 0x2000, 255" = some [.write8 0x2000#16 0xFF#8] := by decide +kernel

/-! ### Single commands, expected values from spec/95_test_vectors.md -/

/-- 44_system.md R180. -/
theorem test_nop : nextOf (exec .nop (writerAt 2 3)) = some (writerAt 2 3) := by decide
/-- Vector C1. -/
theorem test_crcInit : (nextOf (exec .crcInit { State.reset with crcAcc := 0x12345678#32 })).map (·.crcAcc) =
    some 0xFFFFFFFF#32 := by decide
/-- Vector C2. -/
theorem test_crcByte : (nextOf (exec (.crcByte 0x31#8) State.reset)).map (·.crcAcc) = some 0x7C231048#32 := by decide
/-- Vector C6. -/
theorem test_crcByte_zero : (nextOf (exec (.crcByte 0#8) State.reset)).map (·.crcAcc) = some 0x2DFD1072#32 := by decide
/-- Vector C10: four zero bytes. -/
theorem test_crcTbuf : (nextOf (exec (.crcTbuf 1#13 4#13) (writerAt 5 0))).map (·.crcAcc) = some 0xDEBB20E3#32 := by decide
/-- Vector C14. -/
theorem test_crcTbuf_range : (nextOf (exec (.crcTbuf 6656#13 1#13) State.reset)).map (fun t => (t.status, t.faultcmd)) =
    some (0x301#32, 0x0F400001#32) := by decide
/-- Vector V1: the source's check value. -/
theorem test_crcPbuf : (nextOf (exec (.crcPbuf 0#13 9#13) { State.reset with
    pbuf := (List.range 9).map (fun j => (j, BitVec.ofNat 8 (0x31 + j))) })).map (readReg .crcOut) =
    some 0xCBF43926#32 := by decide +kernel
/-- Program P6 step 2: RANGE comes before any read. -/
theorem test_crcPbuf_range : (nextOf (exec (.crcPbuf 4000#13 100#13) State.reset)).map (fun t => (t.status, t.faultcmd)) =
    some (0x301#32, 0x11F40064#32) := by decide
/-- Vector B23. -/
theorem test_bwSetidx : (nextOf (exec (.bwSetidx 67108863#26) (writerAt 1 53248))).map (·.bidx) = some 67108863#32 := by decide
/-- Vector B3. -/
theorem test_bwByte : tbufAfter 2 (exec (.bwByte 0xD5#8) (writerAt 3 3)) = some [some 0x1A#8, some 0xA0#8] := by decide
/-- Vector B18. -/
theorem test_bwByte_capacity : (nextOf (exec (.bwByte 1#8) (writerAt 1 53241))).map (fun t => (t.bidx, t.status, t.faultcmd)) =
    some (53241#32, 0x201#32, 0x24000001#32) := by decide
/-- Vector B13. -/
theorem test_bw4and4 : tbufAfter 2 (exec (.bw4and4 0x55#8) (writerAt 3 0)) = some [some 0xAA#8, some 0xFF#8] := by decide
/-- Vector B22. -/
theorem test_bw4and4_capacity : (nextOf (exec (.bw4and4 0#8) (writerAt 1 53233))).map (fun t => (t.bidx, t.status)) =
    some (53233#32, 0x201#32) := by decide
/-- Vector B8, its first sync word. -/
theorem test_bwSync : tbufAfter 2 (exec .bwSync (writerAt 3 3)) = some [some 0x1F#8, some 0xE0#8] ∧
    (nextOf (exec .bwSync (writerAt 3 3))).map (·.bidx) = some 13#32 := by decide
/-- Vector B20. -/
theorem test_bwSync_capacity : (nextOf (exec .bwSync (writerAt 1 53239))).map (fun t => (t.bidx, t.status)) =
    some (53239#32, 0x201#32) := by decide
/-- Vector B24. -/
theorem test_bwClear : (nextOf (exec .bwClear { writerAt 1 77 with tbuf := [(5, 0xFF#8)] })).map
    (fun t => (t.bidx, t.tbuf.length, Memory.read t.tbuf 5)) = some (77#32, 6656, some 0#8) := by decide +kernel
/-- An undefined byte stays undefined (10_state.md R37). -/
theorem test_bwByte_undefined : tbufAfter 2 (exec (.bwByte 0xFF#8) (writerAt 1 4)) = some [some 0x0F#8, none] := by decide
/-- Vectors S6 and S7, their index 1. -/
theorem test_encode_modes : (encodeSector .doc (1#8 :: List.replicate 255 0#8)).getD 1 0#8 = 0x96#8 ∧
    (encodeSector .ref (1#8 :: List.replicate 255 0#8)).getD 1 0#8 = 0x9A#8 := by decide +kernel
/-- Vector S4: bytes 0, 1, 2, 84, 85, 86 of dump D. -/
theorem test_encode_ramp : [0, 1, 2, 84, 85, 86].map (fun i =>
    (encodeSector .doc ((List.range 256).map (BitVec.ofNat 8))).getD i 0#8) =
    [0x9D#8, 0xEB#8, 0xFF#8, 0xFF#8, 0xAC#8, 0xB2#8] := by decide +kernel
/-- Vector S1, one byte of EBUF after the command. -/
theorem test_seEncode : (nextOf (exec (.seEncode 0#4) { State.reset with pbuf := Memory.filled 256 0#8 })).map
    (fun t => Memory.read t.ebuf 0) = some (some 0x96#8) := by decide +kernel
/-- Vector S12. -/
theorem test_seEncode_undefined : exec (.seEncode 3#4) State.reset = .fault (.undefRead .pbuf 768) := rfl
/-- Vector S8, its first byte. -/
theorem test_seEmit : (nextOf (exec .seEmit { writerAt 1 0 with ebuf := Memory.filled 343 0x96#8 })).map
    (fun t => Memory.read t.tbuf 0) = some (some 0x96#8) := by decide +kernel
/-- Vector S9. -/
theorem test_seEmit_capacity : (nextOf (exec .seEmit (writerAt 1 50505))).map (fun t => (t.bidx, t.status)) =
    some (50505#32, 0x201#32) := by decide
/-- R162's example: the address field of TRK = 17, s = 3, written from bit 0. -/
theorem test_addressField : (addressField 17#8 3 (writerAt 14 0)).toOption.map (fun t => t.tbuf.map (·.2)) =
    some [0xD5#8, 0xAA#8, 0x96#8, 0xFF#8, 0xFE#8, 0xAA#8, 0xBB#8, 0xAB#8, 0xAB#8, 0xFE#8, 0xEE#8, 0xDE#8, 0xAA#8, 0xEB#8] := by
  decide +kernel
/-- TE_ENCODE as the first command after reset meets an undefined payload byte (R202). -/
theorem test_teEncode_undefined : step (State.reset.withFetchWord 32 0x60000000) = .fault (.undefRead .pbuf 0) := rfl

/-! ### Issuing commands and host accesses -/

/-- Vector D2. -/
theorem test_illegal : (nextOf (step (State.reset.withFetchWord 32 1))).map (fun t => (t.status, t.faultcmd)) =
    some (0x101#32, 1#32) := by decide
/-- Vector D8: ignored while FAULT = 1. -/
theorem test_ignored : (nextOf (step (faulted (.write32 0x5000#16 0x04000000#32)))).map (fun t => (t.status, t.faultcmd)) =
    some (0x201#32, 0x24000001#32) := by decide
/-- A host write and the read of the same byte (R52, R62). -/
theorem test_write_then_read : (nextOf (Sys2Proof.core.run 2 { State.reset with
    pending := [.write8 0x2001#16 0xA5#8, .read .w8 0x2001#16] })).map (·.readLog) = some [.byte 0xA5#8] := by decide
/-- An EBUF write has no effect; the byte stays undefined (R52). -/
theorem test_ebuf_write : nextOf (step (pendingOne (.write8 0x4000#16 1#8))) = some State.reset := by decide

/-! ### Witnesses: a state and operands that meet the hypotheses of each statement, clause by clause -/

theorem writerAt_mem (n bit : Nat) : (writerAt n bit).mem .tbuf = Memory.filled n 0#8 := rfl
theorem loaded_mem (n : Nat) : (loaded n).mem .pbuf = Memory.filled n 0#8 := rfl
theorem emitterAt_mem (n bit : Nat) : (emitterAt n bit).mem .ebuf = Memory.filled n 0#8 := rfl

/-- The bytes of a filled RAM below its length are defined. -/
theorem defined_of_filled {s : State} {sp : Space} {size : Nat} (h : s.mem sp = Memory.filled size 0#8) (lo n : Nat)
    (hn : lo + n ≤ size) : Defined s sp lo n := by
  intro a h1 h2
  rw [h, read_filled, if_pos (by omega)]
  rfl

/-- A filled RAM holds zeros below its length. -/
theorem holds_of_filled {s : State} {sp : Space} {size : Nat} (h : s.mem sp = Memory.filled size 0#8) (lo n : Nat)
    (hn : lo + n ≤ size) : Holds s sp lo (List.replicate n 0#8) := by
  intro j hj
  simp only [List.length_replicate] at hj
  rw [h, read_filled, if_pos (by omega), List.getElem?_replicate, if_pos hj]

/-- A filled RAM's bits are 0 below its length. -/
theorem bit_of_filled (n k : Nat) (h : k / 8 < n) : Memory.bit (Memory.filled n 0#8) k = some false := by
  rw [Memory.bit, read_filled, if_pos h]
  simp

theorem witness_EncodeInvertsDecode : decode 0x600001FF#32 = .ok (.teEncode 255#8 .alternate) := rfl
theorem witness_AssemblerRefusesOperandsThatDoNotFit :
    assemble ⟨.crcTbuf, [8191, 0]⟩ = some (.crcTbuf 8191#13 0#13) ∧
    assemble ⟨.teEncode, [255, 1]⟩ = some (.teEncode 255#8 .alternate) := ⟨rfl, rfl⟩
/-- R73: each operand stands in its own field. -/
theorem test_operand_fields : wordOperands (encode (.crcTbuf 100#13 343#13)) .r = [100, 343] ∧
    wordOperands (encode (.teEncode 17#8 .alternate)) .t = [17, 1] := by decide
theorem witness_StepRunsDecodedInstruction :
    (pendingOne (.write32 0x5000#16 0x2FFF#32)).pending = [.write32 0x5000#16 0x2FFF#32] ∧
    (pendingOne (.write32 0x5000#16 0x23FFFFFF#32)).pending = .write32 0x5000#16 0x23FFFFFF#32 :: [] ∧
    faultFlag (pendingOne (.write32 0x5000#16 0x23FFFFFF#32)) = false ∧
    decode 0x23FFFFFF#32 = .ok (.bwSetidx 0x3FFFFFF#26) := ⟨rfl, rfl, by decide, rfl⟩
theorem witness_CmdWriteFollowsTheDecodingRule :
    faultFlag (faulted (.write32 0x5000#16 0x04000000#32)) = true ∧
    faultFlag (pendingOne (.write32 0x5000#16 0x60000200#32)) = false ∧ wordLegal 0x60000200#32 = false ∧
    wordLegal 0x600001FF#32 = true := by decide
theorem witness_FaultIsStickyUntilReset :
    faultFlag (faulted (.write32 0x5000#16 0x04000000#32)) = true ∧
    (faulted (.write8 0x0000#16 1#8)).pending = [.write8 0x0000#16 1#8] ∧
    (nextOf (step (faulted (.write8 0x0000#16 1#8)))).isSome = true ∧
    (faulted .reset).pending = .reset :: [] := by decide
theorem witness_CommandFaultsArePrecise : exec .nop State.reset = .next State.reset ∧
    (nextOf (exec (.bwByte 1#8) (writerAt 1 53241))).isSome = true := ⟨rfl, by decide⟩
theorem witness_FaultsEachCommandCanRaise : State.reset.status = 0#32 ∧ exec .nop State.reset = .next State.reset ∧
    exec (.seEncode 3#4) State.reset = .fault (.undefRead .pbuf 768) := ⟨rfl, rfl, rfl⟩
theorem witness_ResetLeavesTheResetValues : (faulted .reset).pending = .reset :: [] := rfl
theorem witness_CrcRangeAbsorbsItsBytes :
    Holds (writerAt 6656 0) .tbuf 6655 (List.replicate 1 0#8) ∧ (6655#13).toNat = 6655 ∧
    Holds (writerAt 6656 0) .tbuf 6656 (List.replicate 0 0#8) ∧ (6656#13).toNat = 6656 ∧
    Holds (loaded 4096) .pbuf 0 (List.replicate 4096 0#8) ∧ (4096#13).toNat = 4096 :=
  ⟨holds_of_filled (writerAt_mem _ _) 6655 1 (by omega), rfl, holds_of_filled (writerAt_mem _ _) 6656 0 (by omega), rfl,
    holds_of_filled (loaded_mem _) 0 4096 (by omega), rfl⟩
theorem witness_RangeIsCheckedBeforeAnyAccess :
    checkedRange (.crcTbuf 6656#13 1#13) = some (.tbuf, 6656, 1) ∧ 6656 + 1 > Space.size .tbuf ∧
    checkedRange (.crcPbuf 4096#13 0#13) = some (.pbuf, 4096, 0) ∧ 4096 + 0 ≤ Space.size .pbuf ∧
    exec (.crcPbuf 4096#13 0#13) State.reset = .next State.reset := ⟨rfl, by decide, rfl, by decide, rfl⟩
theorem witness_CrcRangeStopsAtTheFirstUndefinedByte :
    checkedRange (.crcTbuf 0#13 3#13) = some (.tbuf, 0, 3) ∧ Memory.read ((writerAt 2 0).mem .tbuf) (0 + 2) = none ∧
    Defined (writerAt 2 0) .tbuf 0 2 := ⟨rfl, rfl, defined_of_filled (writerAt_mem _ _) 0 2 (by omega)⟩
theorem witness_CrcRangesChain :
    exec (.crcTbuf (BitVec.ofNat 13 6656) (BitVec.ofNat 13 0)) State.reset = .next State.reset ∧
    exec (.crcTbuf (BitVec.ofNat 13 (6656 + 0)) (BitVec.ofNat 13 0)) State.reset = .next State.reset ∧
    exec (.crcPbuf (BitVec.ofNat 13 4096) (BitVec.ofNat 13 0)) State.reset = .next State.reset ∧
    exec (.crcPbuf (BitVec.ofNat 13 (4096 + 0)) (BitVec.ofNat 13 0)) State.reset = .next State.reset := ⟨rfl, rfl, rfl, rfl⟩
theorem witness_CrcBytesComputeThePureFunction : faultFlag State.reset = false := by decide
theorem witness_CapacityIsCheckedBeforeAnyWrite :
    capacityBits .seEmit = some 2744 ∧ (writerAt 1 50505).bidx.toNat + 2744 > 53248 ∧
    capacityBits (.bwByte 1#8) = some 8 ∧ (writerAt 1 53240).bidx.toNat + 8 ≤ 53248 ∧
    (nextOf (exec (.bwByte 1#8) (writerAt 1 53240))).isSome = true := by decide
theorem witness_BwByteWritesEightBits : (writerAt 1 53240).bidx.toNat + 8 ≤ 53248 := by decide
theorem witness_Bw4and4WritesSixteenBits : (writerAt 1 53232).bidx.toNat + 16 ≤ 53248 := by decide
theorem witness_BwSyncWritesASyncWord : (writerAt 6656 53238).bidx.toNat + 10 ≤ 53248 ∧
    ∀ k, 53238 ≤ k → k < 53238 + 10 → Memory.bit ((writerAt 6656 53238).mem .tbuf) k = some false :=
  ⟨by decide, fun k h1 h2 => by rw [writerAt_mem]; exact bit_of_filled _ _ (by omega)⟩
theorem witness_FourAndFourFormIsRecovered : (writerAt 6656 53232).bidx.toNat + 16 ≤ 53248 ∧
    ∀ k, 53232 ≤ k → k < 53232 + 16 → Memory.bit ((writerAt 6656 53232).mem .tbuf) k = some false :=
  ⟨by decide, fun k h1 h2 => by rw [writerAt_mem]; exact bit_of_filled _ _ (by omega)⟩
/-- R162's example: the track number 17 in 4-and-4 form. -/
theorem test_fourAndFour : [fourAndFourOdd 17#8, fourAndFourEven 17#8] = [0xAA#8, 0xBB#8] := by decide
theorem witness_BwClearStoresZeroEverywhere : Memory.wf 6656 [(0, 1#8), (6655, 2#8)] = true := by decide
theorem witness_SuccessiveBytesAdvanceByEight : faultFlag (writerAt 6656 53232) = false ∧
    (writerAt 6656 53232).bidx.toNat + 8 * [1#8, 2#8].length ≤ 53248 ∧
    ∀ a, a < 6656 → Memory.read ((writerAt 6656 53232).mem .tbuf) a = some 0#8 :=
  ⟨by decide, by decide, fun a h => by rw [writerAt_mem, read_filled, if_pos h]⟩
theorem witness_WritesNeverClearABit : clearsTbuf .nop = false ∧
    exec .nop { State.reset with tbuf := [(0, 0x80#8)] } = .next { State.reset with tbuf := [(0, 0x80#8)] } ∧
    Memory.bit [(0, 0x80#8)] 0 = some true := ⟨rfl, rfl, by decide⟩
theorem witness_UnchainedValuesOfAPayload : (List.replicate 256 0xFF#8).length = 256 := List.length_replicate
theorem witness_ChainHasItsClosedForm : (List.replicate 342 0x3F#8).length = 342 := List.length_replicate
/-- The values before translation are never an empty list. -/
theorem chain_nonempty (mode : ChainMode) (p : List Byte) : ∃ v, v ∈ chain mode (unchained p) :=
  List.exists_mem_of_length_pos (by rw [chain_length]; exact Nat.succ_pos _)

theorem witness_EncodedValuesAreSixBits : (List.replicate 256 0xFF#8).length = 256 ∧
    ∃ v, v ∈ chain .doc (unchained (List.replicate 256 0xFF#8)) := ⟨List.length_replicate, chain_nonempty _ _⟩
theorem witness_SeEncodeFillsEbuf : (List.replicate 256 0#8).length = 256 ∧ 256 * (15#4).toNat = 3840 ∧
    Holds (loaded 4096) .pbuf 3840 (List.replicate 256 0#8) :=
  ⟨List.length_replicate, rfl, holds_of_filled (loaded_mem _) 3840 256 (by omega)⟩
theorem witness_SeEncodeStopsAtTheFirstUndefinedByte : 256 * (0#4).toNat = 0 ∧
    Memory.read ((loaded 255).mem .pbuf) (0 + 255) = none ∧ Defined (loaded 255) .pbuf 0 255 :=
  ⟨rfl, by rw [loaded_mem, read_filled]; rfl, defined_of_filled (loaded_mem _) 0 255 (by omega)⟩
theorem witness_SeEncodeOutputIsTableEntries : Memory.wf 343 (loaded 4096).ebuf = true ∧
    256 * (15#4).toNat = 3840 ∧ Defined (loaded 4096) .pbuf 3840 256 :=
  ⟨rfl, rfl, defined_of_filled (loaded_mem _) 3840 256 (by omega)⟩
theorem witness_AllZeroSectorEncodesToTheFirstEntry : 256 * (15#4).toNat = 3840 ∧
    ∀ j, j < 256 → Memory.read ((loaded 4096).mem .pbuf) (3840 + j) = some 0#8 :=
  ⟨rfl, fun j hj => by rw [loaded_mem, read_filled, if_pos (by omega)]⟩
theorem witness_SectorEncodingIsInjective : (List.replicate 256 1#8).length = 256 ∧
    encodeSector .doc (List.replicate 256 1#8) = encodeSector .doc (List.replicate 256 1#8) := ⟨List.length_replicate, rfl⟩
theorem witness_SeEmitWritesEbuf : (List.replicate 343 0#8).length = 343 ∧
    Holds (emitterAt 343 50504) .ebuf 0 (List.replicate 343 0#8) ∧ (emitterAt 343 50504).bidx.toNat + 2744 ≤ 53248 :=
  ⟨List.length_replicate, holds_of_filled (emitterAt_mem _ _) 0 343 (by omega), by decide⟩
theorem witness_SeEmitChecksCapacityThenReads :
    Memory.read ((emitterAt 342 50504).mem .ebuf) 342 = none ∧ Defined (emitterAt 342 50504) .ebuf 0 342 ∧
    (emitterAt 342 50504).bidx.toNat + 2744 ≤ 53248 ∧ (emitterAt 342 50505).bidx.toNat + 2744 > 53248 :=
  ⟨by rw [emitterAt_mem, read_filled]; rfl, defined_of_filled (emitterAt_mem _ _) 0 342 (by omega), by decide, by decide⟩
theorem witness_InterleaveMapsArePermutations : logicalSector 8 .primary = 11 ∧ logicalSector 15 .alternate = 15 := by decide
theorem witness_TeEncodeCompletes : Defined (loaded 4096) .pbuf 0 4096 ∧
    Holds (loaded 4096) .pbuf 3840 (List.replicate 256 0#8) :=
  ⟨defined_of_filled (loaded_mem _) 0 4096 (by omega), holds_of_filled (loaded_mem _) 3840 256 (by omega)⟩
theorem witness_TrackLayout : Defined (loaded 4096) .pbuf 0 4096 ∧ 256 * logicalSector 15 .primary = 3840 ∧
    Holds (loaded 4096) .pbuf 3840 (List.replicate 256 0#8) ∧ 256 * logicalSector 0 .alternate = 0 ∧
    Holds (loaded 4096) .pbuf 0 (List.replicate 256 0#8) :=
  ⟨defined_of_filled (loaded_mem _) 0 4096 (by omega), rfl, holds_of_filled (loaded_mem _) 3840 256 (by omega), rfl,
    holds_of_filled (loaded_mem _) 0 256 (by omega)⟩
theorem witness_TeEncodeEqualsItsCommandSequence : faultFlag (loaded 4096) = false ∧ Defined (loaded 4096) .pbuf 0 4096 :=
  ⟨rfl, defined_of_filled (loaded_mem _) 0 4096 (by omega)⟩
theorem witness_TeEncodeStopsAtAnUndefinedByte : Memory.read ((loaded 4095).mem .pbuf) 4095 = none ∧
    256 * logicalSector 15 .primary + 255 = 4095 ∧
    (∀ k', k' < 15 → Defined (loaded 4095) .pbuf (256 * logicalSector k' .primary) 256) ∧
    Defined (loaded 4095) .pbuf (256 * logicalSector 15 .primary) 255 :=
  ⟨by rw [loaded_mem, read_filled]; rfl, rfl,
    fun k' h => defined_of_filled (loaded_mem _) _ _ (by
      have : ∀ k', k' < 15 → 256 * logicalSector k' .primary + 256 ≤ 4095 := by decide
      exact this k' h),
    defined_of_filled (loaded_mem _) _ _ (by decide)⟩
/-- The first slot after slot 0 reads logical sector 7 (primary) or 8 (alternate), so that is where a payload of one sector stops. -/
theorem witness_TeEncodeStopsAtAnUndefinedByte_interleaved : 256 * logicalSector 1 .alternate + 0 = 2048 ∧
    Memory.read ((loaded 256).mem .pbuf) 2048 = none ∧
    (∀ k', k' < 1 → Defined (loaded 256) .pbuf (256 * logicalSector k' .alternate) 256) ∧
    Defined (loaded 256) .pbuf (256 * logicalSector 1 .alternate) 0 :=
  ⟨rfl, by rw [loaded_mem, read_filled]; rfl,
    fun k' h => defined_of_filled (loaded_mem _) _ _ (by
      obtain rfl : k' = 0 := by omega
      decide),
    fun a h1 h2 => absurd h2 (by omega)⟩
theorem witness_TrackDependsOnPayloadAlone : Defined (loaded 4096) .pbuf 0 4096 ∧
    ∃ s' : State, s' ≠ loaded 4096 ∧ s'.pbuf = (loaded 4096).pbuf ∧ s'.chainMode = (loaded 4096).chainMode :=
  ⟨defined_of_filled (loaded_mem _) 0 4096 (by omega), (loaded 4096).setCrcAcc 1#32,
    fun h => absurd (congrArg State.crcAcc h) (by rw [setCrcAcc_crcAcc]; decide), setCrcAcc_pbuf _ _, setCrcAcc_chainMode _ _⟩
/-- What a 32-bit read at an address returns, in a state with a different value in each register. -/
def registerRead (addr : BitVec 16) : Option (List HostValue) :=
  (nextOf (step { State.reset with
    status := 1#32, faultcmd := 2#32, crcAcc := 3#32, bidx := 4#32, bitcnt := 5#32, trkfmt := 6#32, chainMode := .ref,
    pending := [.read .w32 addr] })).map (·.readLog)

/-- The table of R23, row by row from STATUS. -/
theorem test_each_register_reads :
    [0x5004#16, 0x5008#16, 0x500C#16, 0x5010#16, 0x5014#16, 0x5018#16, 0x501C#16, 0x5020#16].map registerRead =
    [1#32, 2#32, 3#32, 0xFFFFFFFC#32, 4#32, 5#32, 6#32, 1#32].map (fun v => some [.word v]) := by decide

/-- One pending read for each of the nine offsets. -/
theorem witness_HostReadsEachRegister :
    (pendingOne (.read .w32 0x5000#16)).pending = .read .w32 0x5000#16 :: [] ∧
    (pendingOne (.read .w32 0x5004#16)).pending = .read .w32 0x5004#16 :: [] ∧
    (pendingOne (.read .w32 0x5008#16)).pending = .read .w32 0x5008#16 :: [] ∧
    (pendingOne (.read .w32 0x500C#16)).pending = .read .w32 0x500C#16 :: [] ∧
    (pendingOne (.read .w32 0x5010#16)).pending = .read .w32 0x5010#16 :: [] ∧
    (pendingOne (.read .w32 0x5014#16)).pending = .read .w32 0x5014#16 :: [] ∧
    (pendingOne (.read .w32 0x5018#16)).pending = .read .w32 0x5018#16 :: [] ∧
    (pendingOne (.read .w32 0x501C#16)).pending = .read .w32 0x501C#16 :: [] ∧
    (pendingOne (.read .w32 0x5020#16)).pending = .read .w32 0x5020#16 :: [] := ⟨rfl, rfl, rfl, rfl, rfl, rfl, rfl, rfl, rfl⟩
theorem witness_HostReadsRamBytes :
    342 < Space.size .ebuf ∧ (pendingOne (.read .w8 (BitVec.ofNat 16 (0x4000 + 342)))).pending = [.read .w8 0x4156#16] ∧
    Memory.read ({ State.reset with ebuf := [(342, 1#8)] } : State).ebuf 342 = some 1#8 ∧
    Memory.read State.reset.ebuf 342 = none := by decide
theorem witness_HostWritesRamBytes :
    (pendingOne (.write8 (BitVec.ofNat 16 4095) 1#8)).pending = [.write8 0x0FFF#16 1#8] ∧
    (pendingOne (.write8 (BitVec.ofNat 16 (0x2000 + 6655)) 1#8)).pending = [.write8 0x39FF#16 1#8] ∧
    (pendingOne (.write8 (BitVec.ofNat 16 (0x4000 + 342)) 1#8)).pending = [.write8 0x4156#16 1#8] := by decide
theorem witness_OnlyAccessesOutsideTheContractAreRefused :
    (pendingOne (.read .w16 0x0000#16)).pending = .read .w16 0x0000#16 :: [] ∧
    HostAction.wellFormed (.read .w16 0x0000#16) = false ∧ HostAction.wellFormed .reset = true := by decide
theorem witness_UnmappedAndReadOnlyAccesses :
    (∀ k, k < Width.bytes .w32 → windowMapped ((0x3FFC#16).toNat + k) = false) ∧ windowMapped (0x5024#16).toNat = false ∧
    (∀ k, k < 2 → windowMapped ((0x1FFE#16).toNat + k) = false) ∧ (∀ k, k < 4 → windowMapped ((0xFFFF#16).toNat + k) = false) ∧
    0x5000 < (0x5020#16).toNat ∧ (0x5020#16).toNat < 0x5024 ∧ (0x5020#16).toNat % 4 = 0 := by decide
theorem witness_HostReadsHaveNoSideEffect :
    (nextOf (step (faulted (.read .w32 0x5004#16)))).map (·.readLog) = some [.word 0x201#32] := by decide
theorem witness_EveryStepKeepsTheInvariant : Inv (pendingOne .reset) ∧ step (pendingOne .reset) = .next State.reset :=
  ⟨⟨rfl, rfl, rfl, .inl rfl, .inl rfl, fun _ => rfl, fun h => absurd h (by decide), fun h => absurd h (by decide),
    by decide, .inl rfl, by decide, fun _ => rfl⟩, rfl⟩
theorem witness_ConfigNeverChanges : step (pendingOne .reset) = .next State.reset := rfl
theorem witness_OnlyNamedCommandsWriteEachPiece : exec .nop State.reset = .next State.reset ∧ writesCrcAcc .nop = false ∧
    writesBidx .nop = false ∧ writesTrack .nop = false ∧ writesTbuf .nop = false ∧ writesEbuf .nop = false ∧
    capacityBits .nop = none ∧ checkedRange .nop = none := ⟨rfl, by decide⟩
/-- The clause about a step: a reset, an illegal word and a CAPACITY fault each give a next state. -/
theorem witness_OnlyNamedCommandsWriteEachPiece_step : step (pendingOne .reset) = .next State.reset ∧
    step (pendingOne (.write32 0x5000#16 1#32)) = .next { State.reset with status := 0x101#32, faultcmd := 1#32 } ∧
    step { pendingOne (.write32 0x5000#16 0x24000001#32) with bidx := 53241#32 } =
      .next { State.reset with bidx := 53241#32, status := 0x201#32, faultcmd := 0x24000001#32 } := ⟨rfl, rfl, rfl⟩

end Sys2Proof.Tests
end

section
/-! ## Proofs: a word and its command

`decode` and `encode` undo each other, and the words that decode are the legal ones (spec/30_encoding.md R72 to R76). -/

namespace Sys2Proof

/-! ### The decoders of the formats (R72, R73) -/

theorem decodeZ_eq_ok {w : Word} {i j : Instr} : decodeZ w i = .ok j ↔ w.extractLsb' 0 26 = 0#26 ∧ i = j := by
  unfold decodeZ; split <;> simp_all

theorem decodeI8_eq_ok {w : Word} {mk : Byte → Instr} {j : Instr} :
    decodeI8 w mk = .ok j ↔ w.extractLsb' 8 18 = 0#18 ∧ mk (w.extractLsb' 0 8) = j := by
  unfold decodeI8; split <;> simp_all

theorem decodeR_eq_ok {w : Word} {mk : BitVec 13 → BitVec 13 → Instr} {j : Instr} :
    decodeR w mk = .ok j ↔ mk (w.extractLsb' 13 13) (w.extractLsb' 0 13) = j := by
  simp [decodeR]

theorem decodeX26_eq_ok {w : Word} {mk : BitVec 26 → Instr} {j : Instr} :
    decodeX26 w mk = .ok j ↔ mk (w.extractLsb' 0 26) = j := by
  simp [decodeX26]

theorem decodeS_eq_ok {w : Word} {mk : BitVec 4 → Instr} {j : Instr} :
    decodeS w mk = .ok j ↔ w.extractLsb' 4 22 = 0#22 ∧ mk (w.extractLsb' 0 4) = j := by
  unfold decodeS; split <;> simp_all

theorem decodeT_eq_ok {w : Word} {mk : Byte → Interleave → Instr} {j : Instr} :
    decodeT w mk = .ok j ↔
      w.extractLsb' 9 17 = 0#17 ∧ mk (w.extractLsb' 0 8) (interleaveOfBit (w.extractLsb' 8 1)) = j := by
  unfold decodeT; split <;> simp_all

/-! ### A word is its opcode and the fields of its format -/

theorem word_eq_z (w : Word) : opField w ++ w.extractLsb' 0 26 = w := BitVec.extractLsb'_append_extractLsb' (w := 6)

theorem word_eq_i8 (w : Word) : opField w ++ w.extractLsb' 8 18 ++ w.extractLsb' 0 8 = w := by
  rw [opField, BitVec.extractLsb'_append_extractLsb'_eq_extractLsb' (by rfl)]
  exact BitVec.extractLsb'_append_extractLsb' (w := 24)

theorem word_eq_r (w : Word) : opField w ++ w.extractLsb' 13 13 ++ w.extractLsb' 0 13 = w := by
  rw [opField, BitVec.extractLsb'_append_extractLsb'_eq_extractLsb' (by rfl)]
  exact BitVec.extractLsb'_append_extractLsb' (w := 19)

theorem word_eq_s (w : Word) : opField w ++ w.extractLsb' 4 22 ++ w.extractLsb' 0 4 = w := by
  rw [opField, BitVec.extractLsb'_append_extractLsb'_eq_extractLsb' (by rfl)]
  exact BitVec.extractLsb'_append_extractLsb' (w := 28)

theorem word_eq_t (w : Word) : opField w ++ w.extractLsb' 9 17 ++ w.extractLsb' 8 1 ++ w.extractLsb' 0 8 = w := by
  rw [opField, BitVec.extractLsb'_append_extractLsb'_eq_extractLsb' (by rfl),
    BitVec.extractLsb'_append_extractLsb'_eq_extractLsb' (by rfl)]
  exact BitVec.extractLsb'_append_extractLsb' (w := 24)

/-! ### Decoding an encoded command -/

/-- A word that decodes to a command is that command's encoding: a legal word has no bit that is dropped (R72 to R75). -/
theorem encode_of_decode {w : Word} {i : Instr} (h : decode w = .ok i) : encode i = w := by
  have opField_eq {k : Nat} (hk : (opField w).toNat = k) : opField w = BitVec.ofNat 6 k := by
    rw [← hk, BitVec.ofNat_toNat, BitVec.setWidth_eq]
  unfold decode at h
  split at h
  case h_1 hop | h_2 hop | h_9 hop | h_10 hop | h_12 hop =>
    obtain ⟨hzero, rfl⟩ := decodeZ_eq_ok.mp h
    conv_rhs => rw [← word_eq_z w, opField_eq hop, hzero]
    rfl
  case h_3 hop | h_7 hop | h_8 hop =>
    obtain ⟨hzero, rfl⟩ := decodeI8_eq_ok.mp h
    conv_rhs => rw [← word_eq_i8 w, opField_eq hop, hzero]
    rfl
  case h_4 hop | h_5 hop =>
    obtain rfl := decodeR_eq_ok.mp h
    conv_rhs => rw [← word_eq_r w, opField_eq hop]
    rfl
  case h_6 hop =>
    obtain rfl := decodeX26_eq_ok.mp h
    conv_rhs => rw [← word_eq_z w, opField_eq hop]
    rfl
  case h_11 hop =>
    obtain ⟨hzero, rfl⟩ := decodeS_eq_ok.mp h
    conv_rhs => rw [← word_eq_s w, opField_eq hop, hzero]
    rfl
  case h_13 hop =>
    obtain ⟨hzero, rfl⟩ := decodeT_eq_ok.mp h
    conv_rhs => rw [← word_eq_t w, opField_eq hop, hzero]
    rw [encode, bitOfInterleave_interleaveOfBit]
  case h_14 => cases h

/-! ### Legal words (R74, R76) -/

theorem append_eq_append_iff {h l : Nat} (x x' : BitVec h) (y y' : BitVec l) : x ++ y = x' ++ y' ↔ x = x' ∧ y = y' := by
  constructor
  · intro heq
    exact ⟨by rw [← high_of_append x y, heq, high_of_append], by rw [← low_of_append x y, heq, low_of_append]⟩
  · rintro ⟨rfl, rfl⟩
    rfl

/-- A mask of ones above bit `l` compares the high part alone. -/
theorem append_and_highMask_eq_iff {h l : Nat} (x p : BitVec h) (y : BitVec l) :
    (x ++ y) &&& (BitVec.allOnes h ++ 0#l) = p ++ 0#l ↔ x = p := by
  simp [BitVec.and_append, append_eq_append_iff]

theorem opField_eq_iff {w : Word} {op : BitVec 6} : opField w = op ↔ (opField w).toNat = op.toNat := BitVec.toNat_inj.symm

/-- A word selects a row of format Z: its opcode is the row's and the reserved bits are 0 (R72, R74). -/
theorem selects_z_iff (w : Word) (op : BitVec 6) :
    w &&& 0xFFFFFFFF#32 = op ++ 0#26 ↔ (opField w).toNat = op.toNat ∧ w.extractLsb' 0 26 = 0#26 := by
  rw [← opField_eq_iff, ← append_eq_append_iff, word_eq_z]
  exact Eq.congr_left (BitVec.and_allOnes (x := w))

theorem selects_i8_iff (w : Word) (op : BitVec 6) :
    w &&& 0xFFFFFF00#32 = op ++ 0#18 ++ 0#8 ↔ (opField w).toNat = op.toNat ∧ w.extractLsb' 8 18 = 0#18 := by
  rw [← opField_eq_iff, ← append_eq_append_iff]
  conv_lhs => rw [← word_eq_i8 w]
  exact append_and_highMask_eq_iff (h := 24) _ _ _

/-- Formats R and X26 reserve no bit (R72). -/
theorem selects_unreserved_iff (w : Word) (op : BitVec 6) :
    w &&& 0xFC000000#32 = op ++ 0#26 ↔ (opField w).toNat = op.toNat := by
  rw [← opField_eq_iff]
  conv_lhs => rw [← word_eq_z w]
  exact append_and_highMask_eq_iff (h := 6) _ _ _

theorem selects_s_iff (w : Word) (op : BitVec 6) :
    w &&& 0xFFFFFFF0#32 = op ++ 0#22 ++ 0#4 ↔ (opField w).toNat = op.toNat ∧ w.extractLsb' 4 22 = 0#22 := by
  rw [← opField_eq_iff, ← append_eq_append_iff]
  conv_lhs => rw [← word_eq_s w]
  exact append_and_highMask_eq_iff (h := 28) _ _ _

theorem selects_t_iff (w : Word) (op : BitVec 6) :
    w &&& 0xFFFFFE00#32 = op ++ 0#17 ++ 0#9 ↔ (opField w).toNat = op.toNat ∧ w.extractLsb' 9 17 = 0#17 := by
  rw [← opField_eq_iff, ← append_eq_append_iff]
  have hword : opField w ++ w.extractLsb' 9 17 ++ w.extractLsb' 0 9 = w := by
    rw [opField, BitVec.extractLsb'_append_extractLsb'_eq_extractLsb' (by rfl)]
    exact BitVec.extractLsb'_append_extractLsb' (w := 23)
  conv_lhs => rw [← hword]
  exact append_and_highMask_eq_iff (h := 23) _ _ _

/-- The opcode map, read by the fields of the word: each row's opcode, and its format's reserved bits 0 (R72, R74). -/
theorem wordLegal_iff (w : Word) :
    wordLegal w = true ↔
      ((opField w).toNat = 0x00 ∧ w.extractLsb' 0 26 = 0#26) ∨ ((opField w).toNat = 0x01 ∧ w.extractLsb' 0 26 = 0#26) ∨
      ((opField w).toNat = 0x02 ∧ w.extractLsb' 8 18 = 0#18) ∨ (opField w).toNat = 0x03 ∨ (opField w).toNat = 0x04 ∨
      (opField w).toNat = 0x08 ∨ ((opField w).toNat = 0x09 ∧ w.extractLsb' 8 18 = 0#18) ∨
      ((opField w).toNat = 0x0A ∧ w.extractLsb' 8 18 = 0#18) ∨ ((opField w).toNat = 0x0B ∧ w.extractLsb' 0 26 = 0#26) ∨
      ((opField w).toNat = 0x0C ∧ w.extractLsb' 0 26 = 0#26) ∨ ((opField w).toNat = 0x10 ∧ w.extractLsb' 4 22 = 0#22) ∨
      ((opField w).toNat = 0x11 ∧ w.extractLsb' 0 26 = 0#26) ∨ ((opField w).toNat = 0x18 ∧ w.extractLsb' 9 17 = 0#17) := by
  simp only [wordLegal, opcodeMap, List.any_cons, List.any_nil, Bool.or_false, Bool.or_eq_true, OpRow.selects, beq_iff_eq]
  exact or_congr (selects_z_iff w 0x00#6) <| or_congr (selects_z_iff w 0x01#6) <| or_congr (selects_i8_iff w 0x02#6) <|
    or_congr (selects_unreserved_iff w 0x03#6) <| or_congr (selects_unreserved_iff w 0x04#6) <|
    or_congr (selects_unreserved_iff w 0x08#6) <| or_congr (selects_i8_iff w 0x09#6) <|
    or_congr (selects_i8_iff w 0x0A#6) <| or_congr (selects_z_iff w 0x0B#6) <| or_congr (selects_z_iff w 0x0C#6) <|
    or_congr (selects_s_iff w 0x10#6) <| or_congr (selects_z_iff w 0x11#6) (selects_t_iff w 0x18#6)

/-- The decoder accepts exactly the legal words: each arm asks for its format's reserved bits, as the row's mask does. -/
theorem exists_decode_iff_wordLegal (w : Word) : (∃ i, decode w = .ok i) ↔ wordLegal w = true := by
  rw [wordLegal_iff]
  unfold decode
  split
  case h_1 hop | h_2 hop | h_9 hop | h_10 hop | h_12 hop => simp [hop, decodeZ_eq_ok]
  case h_3 hop | h_7 hop | h_8 hop => simp [hop, decodeI8_eq_ok]
  case h_4 hop | h_5 hop => simp [hop, decodeR_eq_ok]
  case h_6 hop => simp [hop, decodeX26_eq_ok]
  case h_11 hop => simp [hop, decodeS_eq_ok]
  case h_13 hop => simp [hop, decodeT_eq_ok]
  case h_14 => simp_all

theorem wordLegal_of_decode_ok {w : Word} {i : Instr} (h : decode w = .ok i) : wordLegal w = true :=
  (exists_decode_iff_wordLegal w).mp ⟨i, h⟩

theorem wordLegal_of_decode_error {w : Word} {e : DecodeError} (h : decode w = .error e) : wordLegal w = false := by
  by_contra hlegal
  obtain ⟨i, hi⟩ := (exists_decode_iff_wordLegal w).mpr (Bool.eq_true_of_not_eq_false hlegal)
  rw [hi] at h
  cases h

end Sys2Proof
end

section
/-! ## Proofs: what a command's body can do

Every command is one body and one way to end it. For each body: which updates of the state it is made of, that a property these
updates keep is kept by the body, how far it moves the cursor, and which architected faults it can raise. -/

namespace Sys2Proof.Machine

/-! ### One body for each command -/

/-- The body of each command, checks included: what `complete` ends. -/
def commandBody : Instr → State → Except Stop State
  | .nop => fun s => .ok s
  | .crcInit => fun s => .ok (s.setCrcAcc crcInitValue)
  | .crcByte imm8 => fun s => .ok (s.setCrcAcc (crcStep s.crcAcc imm8))
  | .crcTbuf a b => crcRangeBody .tbuf a b
  | .crcPbuf a b => crcRangeBody .pbuf a b
  | .bwSetidx imm26 => fun s => .ok (s.setBidx (zext32 imm26).toNat)
  | .bwByte imm8 => byteBody imm8
  | .bw4and4 imm8 => w44Body imm8
  | .bwSync => syncBody
  | .bwClear => fun s => .ok (clearTbuf s)
  | .seEncode l => encodeBody l.toNat
  | .seEmit => emitBody
  | .teEncode trk f => trackBody trk f

theorem exec_eq_complete (i : Instr) (s : State) : exec i s = complete i s (commandBody i s) := by
  cases i <;> rfl

/-- A command that has a next state finished its body, or entered an architected fault in the state before it (R203). -/
theorem exec_eq_next {i : Instr} {s t : State} :
    exec i s = .next t ↔
      commandBody i s = .ok t ∨ ∃ c, commandBody i s = .error (.raised c) ∧ t = enterFault c (encode i) s := by
  rw [exec_eq_complete, complete_eq_next]

/-! ### Properties that actions keep -/

/-- An action that finishes leaves P where P held before it. -/
def Keeps (P : State → Prop) (act : State → Except Stop State) : Prop := ∀ s t, P s → act s = .ok t → P t

section
variable {P : State → Prop}

theorem keeps_pure {f : State → State} (h : ∀ s, P s → P (f s)) : Keeps P (fun s => .ok (f s)) := by
  rintro s t hs heq
  cases heq
  exact h s hs

theorem Keeps.andThen {f g : State → Except Stop State} (hf : Keeps P f) (hg : Keeps P g) : Keeps P (andThen f g) := by
  intro s u hs h
  obtain ⟨t, h1, h2⟩ := andThen_eq_ok.mp h
  exact hg t u (hf s t hs h1) h2

theorem Keeps.repeated {act : State → Except Stop State} (h : Keeps P act) (n : Nat) : Keeps P (repeated n act) :=
  fun _ _ hs heq => repeated_keeps n h hs heq

theorem Keeps.forEach {α : Type} {act : α → State → Except Stop State} (h : ∀ x, Keeps P (act x)) (xs : List α) :
    Keeps P (forEach act xs) :=
  fun _ _ hs heq => forEach_keeps (fun x _ => h x) hs heq

/-! ### The cursor writes of the Bit Writer (R122, R126) -/

theorem toNat_ofNat_of_fits {n : Nat} (h : n ≤ capBits) : (BitVec.ofNat 32 n).toNat = n := by
  rw [BitVec.toNat_ofNat, Nat.mod_eq_of_lt]
  unfold capBits at h
  omega

theorem putByte_bidx_toNat {v : Byte} {s : State} (h : s.bidx.toNat + 8 ≤ capBits) :
    (putByte v s).bidx.toNat = s.bidx.toNat + 8 := by
  rw [putByte_bidx, toNat_ofNat_of_fits h]

theorem advance_bidx_toNat {n : Nat} {s : State} (h : s.bidx.toNat + n ≤ capBits) :
    (advance n s).bidx.toNat = s.bidx.toNat + n := by
  rw [advance, setBidx_bidx, toNat_ofNat_of_fits h]

/-- P is kept by the two cursor writes that Bit Writer bodies are made of: a byte, and the skipped bits of a sync word, where they
fit the capacity. -/
structure KeptByCursorWrites (P : State → Prop) : Prop where
  put : ∀ v s, s.bidx.toNat + 8 ≤ capBits → P s → P (putByte v s)
  skip : ∀ s, s.bidx.toNat + syncSlackBits ≤ capBits → P s → P (advance syncSlackBits s)

namespace KeptByCursorWrites

theorem byteBody (hP : KeptByCursorWrites P) (v : Byte) : Keeps P (byteBody v) := by
  intro s t hs h
  rw [byteBody_eq] at h
  split at h
  · cases h
  · cases h
    exact hP.put v s (by omega) hs

theorem w44Body (hP : KeptByCursorWrites P) (v : Byte) : Keeps P (w44Body v) := by
  intro s t hs h
  rw [w44Body_eq] at h
  split at h
  · cases h
  · cases h
    have hfirst := putByte_bidx_toNat (v := fourAndFourOdd v) (s := s) (by omega)
    exact hP.put _ _ (by omega) (hP.put _ s (by omega) hs)

theorem syncBody (hP : KeptByCursorWrites P) : Keeps P syncBody := by
  intro s t hs h
  rw [syncBody_eq] at h
  split at h
  · cases h
  · cases h
    have hbyte := putByte_bidx_toNat (v := syncByte) (s := s) (by omega)
    exact hP.skip _ (by rw [hbyte, syncSlackBits]; omega) (hP.put _ s (by omega) hs)

theorem emitLoop (hP : KeptByCursorWrites P) {i n : Nat} {s t : State} (hfits : s.bidx.toNat + n * 8 ≤ capBits) (hs : P s)
    (h : emitLoop i n s = .ok t) : P t := by
  induction n generalizing i s with
  | zero => cases h; exact hs
  | succ n ih =>
    unfold Machine.emitLoop at h
    split at h
    · cases h
    · next v _ =>
      have hbyte := putByte_bidx_toNat (v := v) (s := s) (by omega)
      exact ih (by omega) (hP.put v s (by omega) hs) h

theorem emitBody (hP : KeptByCursorWrites P) : Keeps P emitBody := by
  intro s t hs h
  obtain ⟨s', hcheck, hloop⟩ := andThen_eq_ok.mp h
  obtain ⟨hfits, rfl⟩ := checkCapacity_eq_ok.mp hcheck
  exact hP.emitLoop hfits hs hloop

end KeptByCursorWrites

/-! ### The track stream (R160) -/

/-- The stream of TE_ENCODE: the leader and the sixteen sectors, between the rewind and the writes of BITCNT and TRKFMT. -/
def trackStream (trk : Byte) (f : Interleave) : State → Except Stop State :=
  andThen (repeated leaderSyncs syncBody) (forEach (sectorBody trk f) (List.range sectors))

theorem andThen_assoc (f g h : State → Except Stop State) : andThen f (andThen g h) = andThen (andThen f g) h := by
  funext s
  unfold andThen
  cases f s <;> rfl

theorem trackBody_eq (trk : Byte) (f : Interleave) (s : State) :
    trackBody trk f s =
      andThen (trackStream trk f) (fun t => .ok (t.setTrack trk f)) ((clearTbuf s).setBidx 0) := by
  rw [trackBody, andThen_assoc, trackStream]

theorem trackBody_eq_ok {trk : Byte} {f : Interleave} {s t : State} :
    trackBody trk f s = .ok t ↔ ∃ u, trackStream trk f ((clearTbuf s).setBidx 0) = .ok u ∧ t = u.setTrack trk f := by
  rw [trackBody_eq, andThen_eq_ok]
  simp [eq_comm]

theorem dataByte_keeps (hP : KeptByCursorWrites P) (i : Nat) : Keeps P (dataByte i) := by
  intro s t hs h
  unfold dataByte at h
  split at h
  · cases h
  · exact hP.byteBody _ s t hs h

theorem sectorGap_keeps (hP : KeptByCursorWrites P) (k : Nat) : Keeps P (sectorGap k) := by
  unfold sectorGap
  split
  · exact hP.byteBody _
  · exact hP.syncBody.repeated _

/-- What cursor writes and the encoding of a sector keep, the stream of a track keeps. -/
theorem trackStream_keeps (hP : KeptByCursorWrites P) (hencode : ∀ l, Keeps P (encodeBody l)) (trk : Byte) (f : Interleave) :
    Keeps P (trackStream trk f) := by
  have hbytes (bytes : List Byte) : Keeps P (fieldBytes bytes) := Keeps.forEach hP.byteBody bytes
  have haddress (k : Nat) : Keeps P (addressField trk k) :=
    (hbytes _).andThen ((Keeps.forEach hP.w44Body _).andThen (hbytes _))
  have hdata (k : Nat) : Keeps P (dataField f k) :=
    (hbytes _).andThen ((hencode _).andThen ((Keeps.forEach (dataByte_keeps hP) _).andThen (hbytes _)))
  have hsector (k : Nat) : Keeps P (sectorBody trk f k) :=
    (haddress k).andThen ((hP.syncBody.repeated _).andThen ((hdata k).andThen (sectorGap_keeps hP k)))
  exact (hP.syncBody.repeated _).andThen (Keeps.forEach hsector _)

end

/-! ### How far an action moves the cursor (R163, R164) -/

/-- Where n more bits fit, the action moves the cursor by n if it finishes, and raises no architected fault. -/
def Advances (n : Nat) (act : State → Except Stop State) : Prop :=
  ∀ s, s.bidx.toNat + n ≤ capBits →
    (∀ t, act s = .ok t → t.bidx.toNat = s.bidx.toNat + n) ∧ ∀ c, act s ≠ .error (.raised c)

theorem Advances.andThen {m n : Nat} {f g : State → Except Stop State} (hf : Advances m f) (hg : Advances n g) :
    Advances (m + n) (andThen f g) := by
  intro s hfits
  obtain ⟨hfirst, hfirstSafe⟩ := hf s (by omega)
  have hsecond (t : State) (ht : f s = .ok t) := hg t (by rw [hfirst t ht]; omega)
  constructor
  · intro u hu
    obtain ⟨t, h1, h2⟩ := andThen_eq_ok.mp hu
    rw [(hsecond t h1).1 u h2, hfirst t h1, Nat.add_assoc]
  · intro c hc
    obtain h1 | ⟨t, h1, h2⟩ := andThen_eq_error.mp hc
    · exact hfirstSafe c h1
    · exact (hsecond t h1).2 c h2

theorem advances_zero_of_pure : Advances 0 (fun s => .ok s) := by
  intro s _
  exact ⟨fun t h => by cases h; rfl, fun c h => by cases h⟩

theorem Advances.forEach {α : Type} {act : α → State → Except Stop State} {n : α → Nat} (h : ∀ x, Advances (n x) (act x))
    (xs : List α) : Advances (xs.map n).sum (forEach act xs) := by
  induction xs with
  | nil => exact advances_zero_of_pure
  | cons x xs ih => exact (h x).andThen ih

theorem Advances.forEach_const {α : Type} {act : α → State → Except Stop State} {n : Nat} (h : ∀ x, Advances n (act x))
    (xs : List α) : Advances (xs.length * n) (Machine.forEach act xs) := by
  have hsum := Advances.forEach h xs
  rwa [List.map_const', List.sum_replicate, smul_eq_mul] at hsum

theorem Advances.repeated {act : State → Except Stop State} {n : Nat} (h : Advances n act) (k : Nat) :
    Advances (n * k) (repeated k act) := by
  induction k with
  | zero => exact advances_zero_of_pure
  | succ k ih =>
    rw [Nat.mul_succ, Nat.add_comm]
    exact h.andThen ih

theorem byteBody_advances (v : Byte) : Advances 8 (byteBody v) := by
  intro s hfits
  rw [byteBody_eq, if_neg (by omega)]
  exact ⟨fun t h => by cases h; exact putByte_bidx_toNat hfits, fun c h => by cases h⟩

theorem w44Body_advances (v : Byte) : Advances 16 (w44Body v) := by
  intro s hfits
  rw [w44Body_eq, if_neg (by omega)]
  refine ⟨fun t h => ?_, fun c h => by cases h⟩
  cases h
  have hfirst := putByte_bidx_toNat (v := fourAndFourOdd v) (s := s) (by omega)
  rw [putByte_bidx_toNat (by omega), hfirst]

theorem syncBody_advances : Advances 10 syncBody := by
  intro s hfits
  rw [syncBody_eq, if_neg (by omega)]
  refine ⟨fun t h => ?_, fun c h => by cases h⟩
  cases h
  have hbyte := putByte_bidx_toNat (v := syncByte) (s := s) (by omega)
  rw [advance_bidx_toNat (by rw [hbyte, syncSlackBits]; omega), hbyte, syncSlackBits]

theorem dataByte_advances (i : Nat) : Advances 8 (dataByte i) := by
  intro s hfits
  unfold dataByte
  split
  · next e he =>
    obtain ⟨-, rfl⟩ := memRead_eq_error.mp he
    constructor
    · intro t h
      cases h
    · intro c h
      cases h
  · exact byteBody_advances _ s hfits

theorem readRange_ne_raised (sp : Space) (a n : Nat) (s : State) (c : FaultCode) :
    readRange sp a n s ≠ .error (.raised c) := by
  intro h
  obtain ⟨k, -, he, -⟩ := readRange_eq_error h
  cases he

/-- SE_ENCODE finishes only by storing an encoded sector in EBUF (R140). -/
theorem encodeBody_eq_ok {l : Nat} {s t : State} (h : encodeBody l s = .ok t) :
    ∃ p, t = writeRange .ebuf 0 (encodeSector s.chainMode p) s := by
  unfold encodeBody at h
  split at h
  · cases h
  · cases h
    exact ⟨_, rfl⟩

theorem encodeBody_ne_raised (l : Nat) (s : State) (c : FaultCode) : encodeBody l s ≠ .error (.raised c) := by
  unfold encodeBody
  split
  · next e he =>
    intro h
    cases h
    exact readRange_ne_raised _ _ _ _ _ he
  · exact fun h => by cases h

theorem encodeBody_advances (l : Nat) : Advances 0 (encodeBody l) := by
  intro s _
  refine ⟨fun t h => ?_, encodeBody_ne_raised l s⟩
  obtain ⟨p, rfl⟩ := encodeBody_eq_ok h
  rw [writeRange_eq_setMem, setMem_bidx, Nat.add_zero]

theorem fieldBytes_advances (bytes : List Byte) : Advances (bytes.length * 8) (fieldBytes bytes) :=
  Advances.forEach_const byteBody_advances bytes

/-- The bits of physical sector k: 112 of its address field, 70 of its gap, 2792 of its data field, then sixteen sync words or the
filler byte (R163). -/
def sectorBits (k : Nat) : Nat := 112 + (70 + (2792 + if k = 15 then 8 else 160))

theorem addressField_advances (trk : Byte) (k : Nat) : Advances 112 (addressField trk k) :=
  (fieldBytes_advances addrPrologue).andThen
    ((Advances.forEach_const w44Body_advances [volume, trk, BitVec.ofNat 8 k, addressChecksum trk k]).andThen
      (fieldBytes_advances epilogue))

theorem dataField_advances (f : Interleave) (k : Nat) : Advances 2792 (dataField f k) := by
  have hdata : Advances 2744 (forEach dataByte (List.range ebufBytes)) := by
    have hloop := Advances.forEach_const dataByte_advances (List.range ebufBytes)
    rwa [List.length_range] at hloop
  exact (fieldBytes_advances dataPrologue).andThen
    ((encodeBody_advances _).andThen (hdata.andThen (fieldBytes_advances epilogue)))

theorem sectorGap_advances (k : Nat) : Advances (if k = 15 then 8 else 160) (sectorGap k) := by
  unfold sectorGap
  split
  · exact byteBody_advances _
  · exact syncBody_advances.repeated 16

theorem sectorBody_advances (trk : Byte) (f : Interleave) (k : Nat) : Advances (sectorBits k) (sectorBody trk f k) :=
  (addressField_advances trk k).andThen ((syncBody_advances.repeated 7).andThen
    ((dataField_advances f k).andThen (sectorGap_advances k)))

/-- The stream of a track is 50632 bits long, whatever it holds (R164). -/
theorem trackStream_advances (trk : Byte) (f : Interleave) : Advances 50632 (trackStream trk f) :=
  (syncBody_advances.repeated 64).andThen (Advances.forEach (sectorBody_advances trk f) (List.range 16))

theorem trackStream_rewound_bidx {trk : Byte} {f : Interleave} {s u : State}
    (h : trackStream trk f (s.setBidx 0) = .ok u) : u.bidx = 50632#32 := by
  have hbits := (trackStream_advances trk f (s.setBidx 0) (by simp [capBits])).1 u h
  exact BitVec.eq_of_toNat_eq (by simpa using hbits)

/-! ### Which architected faults a body can raise (R202) -/

theorem absorbRange_ne_raised (sp : Space) (a n : Nat) (s : State) (c : FaultCode) :
    absorbRange sp a n s ≠ .error (.raised c) := by
  induction n generalizing a s with
  | zero => exact fun h => by cases h
  | succ n ih =>
    unfold absorbRange
    split
    · next e he =>
      obtain ⟨-, rfl⟩ := memRead_eq_error.mp he
      exact fun h => by cases h
    · exact ih _ _

theorem emitLoop_ne_raised (i n : Nat) (s : State) (c : FaultCode) : emitLoop i n s ≠ .error (.raised c) := by
  induction n generalizing i s with
  | zero => exact fun h => by cases h
  | succ n ih =>
    unfold emitLoop
    split
    · next e he =>
      obtain ⟨-, rfl⟩ := memRead_eq_error.mp he
      exact fun h => by cases h
    · exact ih _ _

theorem crcRangeBody_raised {sp : Space} {a b : BitVec 13} {s : State} {c : FaultCode}
    (h : crcRangeBody sp a b s = .error (.raised c)) : c = .range := by
  obtain hcheck | ⟨t, -, habsorb⟩ := andThen_eq_error.mp h
  · obtain ⟨-, heq⟩ := checkRange_eq_error.mp hcheck
    cases heq
    rfl
  · exact absurd habsorb (absorbRange_ne_raised _ _ _ _ _)

/-- A body that raises a fault only from its capacity check raises CAPACITY. -/
theorem andThen_checkCapacity_raised {n : Nat} {act : State → Except Stop State} {s : State} {c : FaultCode}
    (hact : ∀ t, act t ≠ .error (.raised c)) (h : andThen (checkCapacity n) act s = .error (.raised c)) : c = .capacity := by
  obtain hcheck | ⟨t, -, hrest⟩ := andThen_eq_error.mp h
  · obtain ⟨-, heq⟩ := checkCapacity_eq_error.mp hcheck
    cases heq
    rfl
  · exact absurd hrest (hact t)

theorem emitBody_raised {s : State} {c : FaultCode} (h : emitBody s = .error (.raised c)) : c = .capacity :=
  andThen_checkCapacity_raised (act := emitLoop 0 ebufBytes) (fun t => emitLoop_ne_raised 0 ebufBytes t c) h

/-- TE_ENCODE raises no architected fault: its stream always fits (R164). -/
theorem trackBody_ne_raised (trk : Byte) (f : Interleave) (s : State) (c : FaultCode) :
    trackBody trk f s ≠ .error (.raised c) := by
  rw [trackBody_eq]
  intro h
  obtain hstream | ⟨t, -, htrack⟩ := andThen_eq_error.mp h
  · exact (trackStream_advances trk f _ (by simp [capBits])).2 c hstream
  · cases htrack

/-- CAPACITY comes only from a command that checks a capacity, RANGE only from one that checks a range, and nothing else. -/
theorem commandBody_raised {i : Instr} {s : State} {c : FaultCode} (h : commandBody i s = .error (.raised c)) :
    c = .capacity ∧ (capacityBits i).isSome = true ∨ c = .range ∧ (checkedRange i).isSome = true := by
  cases i with
  | crcTbuf | crcPbuf => exact .inr ⟨crcRangeBody_raised h, rfl⟩
  | bwByte | bw4and4 | bwSync => exact .inl ⟨andThen_checkCapacity_raised (fun t ht => by cases ht) h, rfl⟩
  | seEmit => exact .inl ⟨emitBody_raised h, rfl⟩
  | seEncode => exact absurd h (encodeBody_ne_raised _ _ _)
  | teEncode => exact absurd h (trackBody_ne_raised _ _ _ _)
  | nop | crcInit | crcByte | bwSetidx | bwClear => cases h

end Sys2Proof.Machine
end

section
/-! ## Proofs: what each command writes (spec/10_state.md R23, spec/20_memory.md R50) -/

namespace Sys2Proof.Machine

/-! ### The updates a body is made of -/

/-- t is s after writes to TBUF and BIDX alone. -/
def WroteCursor (s t : State) : Prop := ∃ m n, t = (s.setMem .tbuf m).setBidx n

/-- t is s after writes to TBUF, EBUF and BIDX alone. -/
def WroteTrack (s t : State) : Prop := ∃ m e n, t = ((s.setMem .tbuf m).setMem .ebuf e).setBidx n

@[simp] theorem setBidx_bidx_self (s : State) : s.setBidx s.bidx.toNat = s := by
  simp [State.setBidx]

theorem WroteCursor.refl (s : State) : WroteCursor s s :=
  ⟨s.tbuf, s.bidx.toNat, by rw [← mem_tbuf, setMem_mem, setBidx_bidx_self]⟩

theorem WroteTrack.refl (s : State) : WroteTrack s s :=
  ⟨s.tbuf, s.ebuf, s.bidx.toNat, by rw [← mem_tbuf, setMem_mem, ← mem_ebuf, setMem_mem, setBidx_bidx_self]⟩

theorem wroteCursor_keptByCursorWrites (s : State) : KeptByCursorWrites (WroteCursor s) where
  put := by
    rintro v _ - ⟨m, n, rfl⟩
    exact ⟨_, _, putByte_eq v _⟩
  skip := by
    rintro _ - ⟨m, n, rfl⟩
    exact ⟨m, _, rfl⟩

theorem wroteTrack_keptByCursorWrites (s : State) : KeptByCursorWrites (WroteTrack s) where
  put := by
    rintro v _ - ⟨m, e, n, rfl⟩
    exact ⟨_, e, _, putByte_eq v _⟩
  skip := by
    rintro _ - ⟨m, e, n, rfl⟩
    exact ⟨m, e, _, rfl⟩

theorem wroteTrack_keptByEncode (s : State) (l : Nat) : Keeps (WroteTrack s) (encodeBody l) := by
  rintro _ t ⟨m, e, n, rfl⟩ h
  obtain ⟨p, rfl⟩ := encodeBody_eq_ok h
  exact ⟨m, _, n, writeRange_eq_setMem _ _ _ _⟩

/-- CRC_TBUF and CRC_PBUF write CRC_ACC alone (R103, R104). -/
theorem absorbRange_eq_ok {sp : Space} {a n : Nat} {s t : State} (h : absorbRange sp a n s = .ok t) :
    ∃ v, t = s.setCrcAcc v := by
  induction n generalizing a s with
  | zero => cases h; exact ⟨t.crcAcc, rfl⟩
  | succ n ih =>
    unfold absorbRange at h
    split at h
    · cases h
    · obtain ⟨v, rfl⟩ := ih h
      exact ⟨v, rfl⟩

theorem crcRangeBody_eq_ok {sp : Space} {a b : BitVec 13} {s t : State} (h : crcRangeBody sp a b s = .ok t) :
    ∃ v, t = s.setCrcAcc v := by
  obtain ⟨s', hcheck, habsorb⟩ := andThen_eq_ok.mp h
  obtain ⟨-, rfl⟩ := checkRange_eq_ok.mp hcheck
  exact absorbRange_eq_ok habsorb

/-! ### The write set of a command -/

/-- From s to t, command i wrote only the registers and RAMs that the tables name for it. -/
structure WritesOnlyNamed (i : Instr) (s t : State) : Prop where
  status : t.status = s.status
  faultcmd : t.faultcmd = s.faultcmd
  crcAcc : writesCrcAcc i = false → t.crcAcc = s.crcAcc
  bidx : writesBidx i = false → t.bidx = s.bidx
  bitcnt : writesTrack i = false → t.bitcnt = s.bitcnt
  trkfmt : writesTrack i = false → t.trkfmt = s.trkfmt
  tbuf : writesTbuf i = false → t.tbuf = s.tbuf
  ebuf : writesEbuf i = false → t.ebuf = s.ebuf
  pbuf : t.pbuf = s.pbuf
  chainMode : t.chainMode = s.chainMode
  draws : t.draws = s.draws
  pending : t.pending = s.pending
  readLog : t.readLog = s.readLog

namespace WritesOnlyNamed
variable {i : Instr}

theorem refl (s : State) : WritesOnlyNamed i s s := by
  constructor <;> simp

theorem setCrcAcc (h : writesCrcAcc i = true) (s : State) (v : Word) : WritesOnlyNamed i s (s.setCrcAcc v) := by
  constructor <;> simp [h]

theorem setBidx (h : writesBidx i = true) (s : State) (n : Nat) : WritesOnlyNamed i s (s.setBidx n) := by
  constructor <;> simp [h]

theorem clearTbuf (h : writesTbuf i = true) (s : State) : WritesOnlyNamed i s (clearTbuf s) := by
  constructor <;> simp [h, Machine.clearTbuf]

theorem of_wroteCursor (hbidx : writesBidx i = true) (htbuf : writesTbuf i = true) {s t : State} (h : WroteCursor s t) :
    WritesOnlyNamed i s t := by
  obtain ⟨m, n, rfl⟩ := h
  constructor <;> simp [hbidx, htbuf]

theorem of_encodeBody (h : writesEbuf i = true) {l : Nat} {s t : State} (hbody : encodeBody l s = .ok t) :
    WritesOnlyNamed i s t := by
  obtain ⟨p, rfl⟩ := encodeBody_eq_ok hbody
  rw [writeRange_eq_setMem]
  constructor <;> simp [h]

theorem of_trackBody {trk : Byte} {f : Interleave} {s t : State} (h : trackBody trk f s = .ok t) :
    WritesOnlyNamed (.teEncode trk f) s t := by
  obtain ⟨u, hstream, rfl⟩ := trackBody_eq_ok.mp h
  obtain ⟨m, e, n, rfl⟩ :=
    trackStream_keeps (wroteTrack_keptByCursorWrites _) (wroteTrack_keptByEncode _) trk f _ _ (WroteTrack.refl _) hstream
  constructor <;> simp [writesBidx, writesTrack, writesTbuf, writesEbuf, Machine.clearTbuf]

end WritesOnlyNamed

/-- A finished body wrote only what the tables name for its command. -/
theorem commandBody_writesOnlyNamed {i : Instr} {s t : State} (h : commandBody i s = .ok t) : WritesOnlyNamed i s t := by
  have hcursor := wroteCursor_keptByCursorWrites s
  cases i with
  | nop => cases h; exact .refl s
  | crcInit | crcByte => cases h; exact .setCrcAcc rfl s _
  | crcTbuf | crcPbuf =>
    obtain ⟨v, rfl⟩ := crcRangeBody_eq_ok h
    exact .setCrcAcc rfl s v
  | bwSetidx => cases h; exact .setBidx rfl s _
  | bwByte v => exact .of_wroteCursor rfl rfl (hcursor.byteBody v s t (.refl s) h)
  | bw4and4 v => exact .of_wroteCursor rfl rfl (hcursor.w44Body v s t (.refl s) h)
  | bwSync => exact .of_wroteCursor rfl rfl (hcursor.syncBody s t (.refl s) h)
  | bwClear => cases h; exact .clearTbuf rfl s
  | seEncode => exact .of_encodeBody rfl h
  | seEmit => exact .of_wroteCursor rfl rfl (hcursor.emitBody s t (.refl s) h)
  | teEncode => exact .of_trackBody h

/-- What a command with a next state can do: write what the tables name, or enter CAPACITY or RANGE where it makes that check. -/
theorem exec_next_cases {i : Instr} {s t : State} (h : exec i s = .next t) :
    WritesOnlyNamed i s t ∨
      ∃ c, t = enterFault c (encode i) s ∧
        (c = .capacity ∧ (capacityBits i).isSome = true ∨ c = .range ∧ (checkedRange i).isSome = true) := by
  obtain hbody | ⟨c, hbody, rfl⟩ := exec_eq_next.mp h
  · exact .inl (commandBody_writesOnlyNamed hbody)
  · exact .inr ⟨c, rfl, commandBody_raised hbody⟩

end Sys2Proof.Machine
end

section
/-! ## Proofs: what one host interaction can do (spec/20_memory.md R51, R52, R59) -/

namespace Sys2Proof.Machine

/-! ### What an address reaches -/

theorem resolve_eq_ramByte {w : Width} {addr : BitVec 16} {sp : Space} {i : Nat} (h : resolve w addr = .ramByte sp i) :
    locate addr.toNat = .ram sp i := by
  unfold resolve at h
  split at h
  · cases h; assumption
  · cases h
  · split at h <;> cases h

theorem resolve_eq_register {w : Width} {addr : BitVec 16} {r : Reg} (h : resolve w addr = .register r) :
    locate addr.toNat = .register r := by
  unfold resolve at h
  split at h
  · cases h
  · cases h; assumption
  · split at h <;> cases h

theorem registerAt_ne_ram (n : Nat) (sp : Space) (i : Nat) : registerAt n ≠ .ram sp i := by
  unfold registerAt
  split <;> simp

/-- A RAM byte the window reaches lies inside its RAM. -/
theorem locate_ram_lt {a : Nat} {sp : Space} {i : Nat} (h : locate a = .ram sp i) : i < sp.size := by
  unfold locate at h
  split_ifs at h
  · cases h; assumption
  · cases h; simp only [Space.size, tbufBytes]; omega
  · cases h; simp only [Space.size, ebufBytes]; omega
  · exact absurd h (registerAt_ne_ram _ _ _)

theorem registerAt_eq_cmd {n : Nat} (h : registerAt n = .register .cmd) : n = 0 := by
  unfold registerAt at h
  split at h <;> cases h
  rfl

/-- CMD stands at 0x5000 alone. -/
theorem locate_eq_cmd {a : Nat} (h : locate a = .register .cmd) : a = 0x5000 := by
  unfold locate at h
  split_ifs at h
  have hzero := registerAt_eq_cmd h
  omega

/-! ### The effect of an interaction -/

/-- What an interaction of the host that has a next state does to the engine (R52, R59, R75, R217, R230). -/
inductive HostEffect (s : State) : HostAction → State → Prop
  /-- A read gives a value to the host, and may draw it. -/
  | read (w : Width) (addr : BitVec 16) (log : List HostValue) (draws : Nat) :
    HostEffect s (.read w addr) { s with readLog := log, draws := draws }
  /-- A byte write to PBUF or TBUF is stored. -/
  | store (addr : BitVec 16) (v : Byte) (sp : Space) (i : Nat) (hsp : sp ≠ .ebuf) (hi : i < sp.size) :
    HostEffect s (.write8 addr v) (memWrite sp i v s)
  /-- A write to EBUF, to a register other than CMD or to unmapped addresses, or to CMD while a fault is recorded. -/
  | nothing (act : HostAction) (hact : act ≠ .reset) : HostEffect s act s
  /-- An illegal word written to CMD. -/
  | illegal (w : Word) (e : DecodeError) (hfree : faultFlag s = false) (hw : decode w = .error e) :
    HostEffect s (.write32 cmdAddr w) (enterFault .illegalCmd w s)
  /-- A command written to CMD. -/
  | command (w : Word) (i : Instr) (t : State) (hfree : faultFlag s = false) (hw : decode w = .ok i)
    (hexec : exec i s = .next t) : HostEffect s (.write32 cmdAddr w) t
  /-- The host's reset. -/
  | reset : HostEffect s .reset (resetEngine s)

theorem hostRead_effect {w : Width} {addr : BitVec 16} {s t : State} (h : hostRead w addr s = .next t) :
    HostEffect s (.read w addr) t := by
  unfold hostRead at h
  split at h
  · split at h
    · cases h
      exact .read w addr _ s.draws
    · cases h
  · cases h
    exact .read w addr _ _
  · cases h
    exact .read w addr _ s.draws
  · cases h
    exact .read w addr _ _
  · cases h

theorem hostWrite8_effect {addr : BitVec 16} {v : Byte} {s t : State} (h : hostWrite8 addr v s = .next t) :
    HostEffect s (.write8 addr v) t := by
  unfold hostWrite8 at h
  split at h
  · cases h
    exact .nothing _ (by simp)
  · next sp i hne hresolve =>
    cases h
    exact .store addr v sp i hne (locate_ram_lt (resolve_eq_ramByte hresolve))
  · cases h
  · cases h
    exact .nothing _ (by simp)
  · cases h

theorem hostWrite16_effect {addr v : BitVec 16} {s t : State} (h : hostWrite16 addr v s = .next t) :
    HostEffect s (.write16 addr v) t := by
  unfold hostWrite16 at h
  split at h
  · cases h
    exact .nothing _ (by simp)
  · cases h

theorem issueCommand_effect {w : Word} {s t : State} (h : issueCommand w s = .next t) :
    HostEffect s (.write32 cmdAddr w) t := by
  unfold issueCommand at h
  split at h
  · cases h
    exact .nothing _ (by simp)
  · next hfree =>
    have hfree : faultFlag s = false := Bool.eq_false_of_not_eq_true hfree
    split at h
    · next e hw =>
      cases h
      exact .illegal w e hfree hw
    · next i hw => exact .command w i t hfree hw h

theorem hostWrite32_effect {addr : BitVec 16} {v : Word} {s t : State} (h : hostWrite32 addr v s = .next t) :
    HostEffect s (.write32 addr v) t := by
  unfold hostWrite32 at h
  split at h
  · next hresolve =>
    obtain rfl : addr = cmdAddr := BitVec.eq_of_toNat_eq (locate_eq_cmd (resolve_eq_register hresolve))
    exact issueCommand_effect h
  · cases h
    exact .nothing _ (by simp)
  · cases h
  · cases h
    exact .nothing _ (by simp)
  · cases h

theorem hostStep_effect {act : HostAction} {s t : State} (h : hostStep act s = .next t) : HostEffect s act t := by
  cases act with
  | read w addr => exact hostRead_effect h
  | write8 addr v => exact hostWrite8_effect h
  | write16 addr v => exact hostWrite16_effect h
  | write32 addr v => exact hostWrite32_effect h
  | reset => cases h; exact .reset

/-- What a step with a next state does: nothing when no interaction is pending, else the effect of the next one. -/
theorem step_effect {s t : State} (h : step s = .next t) :
    (s.pending = [] ∧ t = s) ∨
      ∃ act rest, s.pending = act :: rest ∧ HostEffect { s with pending := rest } act t := by
  cases hp : s.pending with
  | nil =>
    rw [step_idle hp] at h
    cases h
    exact .inl ⟨rfl, rfl⟩
  | cons act rest =>
    rw [step_of_pending hp] at h
    exact .inr ⟨act, rest, rfl, hostStep_effect h⟩

end Sys2Proof.Machine
end

section
/-! ## Proofs: the bytes of an encoded sector are entries of GCR62 (spec/42_sector_encoder.md R141 to R146) -/

namespace Sys2Proof.Machine

/-- Every byte of the list is a six-bit value, an index of GCR62. -/
def SixBits (bytes : List Byte) : Prop := ∀ b ∈ bytes, b.toNat < 2 ^ 6

theorem SixBits.getD {bytes : List Byte} (h : SixBits bytes) (i : Nat) : (bytes.getD i 0#8).toNat < 2 ^ 6 := by
  rw [List.getD_eq_getElem?_getD]
  cases hi : bytes[i]? with
  | none => decide
  | some b => exact h b (List.mem_of_getElem? hi)

theorem SixBits.append {xs ys : List Byte} (hx : SixBits xs) (hy : SixBits ys) : SixBits (xs ++ ys) :=
  List.forall_mem_append.mpr ⟨hx, hy⟩

theorem SixBits.singleton {b : Byte} (h : b.toNat < 2 ^ 6) : SixBits [b] := by
  simpa [SixBits] using h

theorem xor_sixBits {a b : Byte} (ha : a.toNat < 2 ^ 6) (hb : b.toNat < 2 ^ 6) : (a ^^^ b).toNat < 2 ^ 6 := by
  rw [BitVec.toNat_xor]
  exact Nat.xor_lt_two_pow ha hb

/-- Three reversed bit pairs make a six-bit value. -/
theorem rev2_triple_sixBits (x y z : BitVec 2) : (rev2 x ||| (rev2 y <<< 2) ||| (rev2 z <<< 4)).toNat < 2 ^ 6 := by
  revert x y z
  decide

theorem rev2_pair_sixBits (x y : BitVec 2) : (rev2 x ||| (rev2 y <<< 2)).toNat < 2 ^ 6 := by
  revert x y
  decide

theorem lowBits_sixBits (p : List Byte) : SixBits (lowBits p) := by
  intro b hb
  simp only [lowBits, List.mem_append, List.mem_map, List.mem_cons, List.not_mem_nil, or_false] at hb
  obtain ⟨c, -, rfl⟩ | rfl | rfl := hb
  · exact rev2_triple_sixBits _ _ _
  · exact rev2_pair_sixBits _ _
  · exact rev2_pair_sixBits _ _

theorem highBits_sixBits (p : List Byte) : SixBits (highBits p) := by
  intro b hb
  obtain ⟨c, -, rfl⟩ := List.mem_map.mp hb
  have hbyte := (p.getD c 0#8).isLt
  rw [BitVec.toNat_ushiftRight, Nat.shiftRight_eq_div_pow]
  omega

theorem sweepDown_sixBits (lo n : Nat) {out6 : List Byte} (h : SixBits out6) : SixBits (sweepDown lo n out6) := by
  induction n generalizing out6 with
  | zero => exact h
  | succ n ih =>
    refine ih fun b hb => ?_
    obtain hmem | rfl := List.mem_or_eq_of_mem_set hb
    · exact h b hmem
    · exact xor_sixBits (h.getD _) (h.getD _)

theorem chain_sixBits (mode : ChainMode) {q : List Byte} (h : SixBits q) : SixBits (chain mode q) := by
  have hout6 : SixBits (q ++ [q.getD 341 0#8]) := h.append (.singleton (h.getD 341))
  unfold chain
  cases mode with
  | doc => exact sweepDown_sixBits 2 341 hout6
  | ref => exact sweepDown_sixBits 1 341 hout6

theorem gcr62_mem {v : Byte} (h : v.toNat < 2 ^ 6) : gcr62 v ∈ gcr62Table := by
  have hlt : v.toNat < gcr62Table.length := h
  rw [gcr62, List.getD_eq_getElem _ _ hlt]
  exact List.getElem_mem hlt

theorem encodeSector_mem_gcr62Table (mode : ChainMode) (p : List Byte) : ∀ b ∈ encodeSector mode p, b ∈ gcr62Table := by
  intro b hb
  rw [encodeSector, List.mem_map] at hb
  obtain ⟨v, hv, rfl⟩ := hb
  have hq : SixBits (unchained p) := (lowBits_sixBits p).append (highBits_sixBits p)
  exact gcr62_mem (chain_sixBits mode hq v hv)

@[simp] theorem encodeSector_length (mode : ChainMode) (p : List Byte) : (encodeSector mode p).length = 343 := by
  simp [encodeSector, unchained]

end Sys2Proof.Machine
end

section
/-! ## Proofs: every step keeps the invariant -/

namespace Sys2Proof.Machine

/-! ### The RAM writers keep the canonical form (R50) -/

theorem wf_put8 {size : Nat} (idx : Nat) (v : Byte) (s : State) :
    Memory.wf size (put8 idx v s).tbuf = Memory.wf size s.tbuf := by
  unfold put8
  dsimp only
  split <;> simp [memOr, wf_or]

theorem wf_writeRange {size : Nat} (sp : Space) (a : Nat) (vs : List Byte) (s : State) (hfits : a + vs.length ≤ size)
    (h : Memory.wf size (s.mem sp) = true) : Memory.wf size ((writeRange sp a vs s).mem sp) = true := by
  induction vs generalizing a s with
  | nil => exact h
  | cons v vs ih =>
    rw [List.length_cons] at hfits
    refine ih (a + 1) (memWrite sp a v s) (by omega) ?_
    rw [mem_memWrite_same]
    exact wf_write _ _ _ (by omega) h

/-! ### The updates keep the invariant -/

/-- The reserved bits of TRKFMT read 0 (R27). -/
theorem trkfmtWord_toNat_lt (trk : Byte) (f : Interleave) : (trkfmtWord trk f).toNat < 2 ^ 9 := by
  have htrk : (trk.setWidth 32).toNat < 2 ^ 9 := by
    rw [BitVec.toNat_setWidth]
    exact (Nat.mod_le _ _).trans_lt (trk.isLt.trans (by decide))
  have hformat : ((bitOfInterleave f).setWidth 32 <<< 8).toNat < 2 ^ 9 := by cases f <;> decide
  rw [trkfmtWord, BitVec.toNat_or]
  exact Nat.or_lt_two_pow htrk hformat

namespace Inv
variable {s : State}

theorem reset : Inv State.reset where
  pbuf_wf := rfl
  tbuf_wf := rfl
  ebuf_wf := rfl
  ebuf_encoded := .inl rfl
  status_legal := .inl rfl
  faultcmd_zero _ := rfl
  faultcmd_illegal h := absurd h (by decide)
  faultcmd_legal h := absurd h (by decide)
  bidx_bound := by decide
  bitcnt_legal := .inl rfl
  trkfmt_reserved := by decide
  trkfmt_zero _ := rfl

/-- CRC_ACC and the model's own fields stand in no clause of the invariant. -/
theorem setUnconstrained (h : Inv s) (acc : Word) (pending : List HostAction) (log : List HostValue) (draws : Nat) :
    Inv { s with crcAcc := acc, pending := pending, readLog := log, draws := draws } :=
  { h with }

theorem setTbuf (h : Inv s) {m : Memory} (hm : Memory.wf 6656 m = true) : Inv (s.setMem .tbuf m) :=
  { h with tbuf_wf := hm }

theorem setBidx (h : Inv s) {n : Nat} (hn : n < 2 ^ 26) : Inv (s.setBidx n) :=
  { h with bidx_bound := by rw [setBidx_bidx, BitVec.toNat_ofNat]; exact (Nat.mod_le n _).trans_lt hn }

theorem setTrack (h : Inv s) (hbidx : s.bidx = 50632#32) (trk : Byte) (f : Interleave) : Inv (s.setTrack trk f) :=
  { h with
    bitcnt_legal := .inr hbidx
    trkfmt_reserved := trkfmtWord_toNat_lt trk f
    trkfmt_zero := fun hzero => by rw [setTrack_bitcnt, hbidx] at hzero; exact absurd hzero (by decide) }

theorem clearTbuf (h : Inv s) : Inv (clearTbuf s) := h.setTbuf (wf_filled 6656 0#8)

/-- 343 entries of GCR62 stored in EBUF from its first byte on. -/
theorem writeEbuf (h : Inv s) {bytes : List Byte} (hlen : bytes.length = 343) (hmem : ∀ b ∈ bytes, b ∈ gcr62Table) :
    Inv (writeRange .ebuf 0 bytes s) := by
  have hwf := wf_writeRange (size := 343) .ebuf 0 bytes s (by omega) h.ebuf_wf
  have hread (i : Nat) (hi : i < 343) :
      ∃ v ∈ gcr62Table, Memory.read ((writeRange .ebuf 0 bytes s).mem .ebuf) i = some v := by
    refine ⟨bytes[i], hmem _ (List.getElem_mem _), ?_⟩
    rw [read_writeRange, dif_pos ⟨Nat.zero_le i, by omega⟩]
    rfl
  rw [writeRange_eq_setMem]
  exact { h with ebuf_wf := hwf, ebuf_encoded := .inr hread }

theorem putByte (h : Inv s) (v : Byte) (hfits : s.bidx.toNat + 8 ≤ capBits) : Inv (putByte v s) := by
  rw [putByte_eq]
  unfold capBits at hfits
  exact (h.setTbuf ((wf_put8 _ v s).trans h.tbuf_wf)).setBidx (by omega)

theorem advance (h : Inv s) {n : Nat} (hfits : s.bidx.toNat + n ≤ capBits) : Inv (advance n s) := by
  unfold capBits at hfits
  exact h.setBidx (by omega)

/-- ILLEGAL_CMD records a word that is no command (R201). -/
theorem enterIllegal (h : Inv s) {w : Word} (hw : wordLegal w = false) : Inv (enterFault .illegalCmd w s) :=
  { h with
    status_legal := .inr (.inl rfl)
    faultcmd_zero := fun hzero => absurd (show statusWord .illegalCmd = 0#32 from hzero) (by decide)
    faultcmd_illegal := fun _ => hw
    faultcmd_legal := fun hlegal =>
      absurd (show statusWord .illegalCmd = 0x201#32 ∨ statusWord .illegalCmd = 0x301#32 from hlegal) (by decide) }

/-- CAPACITY and RANGE record a command (R201). -/
theorem enterLegal (h : Inv s) {w : Word} (hw : wordLegal w = true) {c : FaultCode} (hc : c = .capacity ∨ c = .range) :
    Inv (enterFault c w s) := by
  have hstatus : statusWord c = 0x201#32 ∨ statusWord c = 0x301#32 := by obtain rfl | rfl := hc <;> decide
  have hzero : statusWord c ≠ 0x000#32 := by obtain rfl | rfl := hc <;> decide
  have hillegal : statusWord c ≠ 0x101#32 := by obtain rfl | rfl := hc <;> decide
  exact { h with
    status_legal := .inr (.inr hstatus)
    faultcmd_zero := fun heq => absurd heq hzero
    faultcmd_illegal := fun heq => absurd heq hillegal
    faultcmd_legal := fun _ => hw }

theorem memWrite (h : Inv s) {sp : Space} {i : Nat} (v : Byte) (hsp : sp ≠ .ebuf) (hi : i < sp.size) :
    Inv (memWrite sp i v s) := by
  cases sp with
  | pbuf => exact { h with pbuf_wf := wf_write _ _ _ hi h.pbuf_wf }
  | tbuf => exact h.setTbuf (wf_write _ _ _ hi h.tbuf_wf)
  | ebuf => exact absurd rfl hsp

theorem resetEngine (s : State) : Inv (resetEngine s) :=
  { Inv.reset with }

end Inv

/-! ### Commands and steps keep the invariant -/

theorem inv_keptByCursorWrites : KeptByCursorWrites Inv where
  put v _ hfits h := h.putByte v hfits
  skip _ hfits h := h.advance hfits

theorem inv_keptByEncode (l : Nat) : Keeps Inv (encodeBody l) := by
  intro s t hs h
  obtain ⟨p, rfl⟩ := encodeBody_eq_ok h
  exact hs.writeEbuf (encodeSector_length _ p) (encodeSector_mem_gcr62Table _ p)

theorem inv_keptByTrack (trk : Byte) (f : Interleave) : Keeps Inv (trackBody trk f) := by
  intro s t hs h
  obtain ⟨u, hstream, rfl⟩ := trackBody_eq_ok.mp h
  have hu : Inv u := trackStream_keeps inv_keptByCursorWrites inv_keptByEncode trk f _ u
    (hs.clearTbuf.setBidx (by decide)) hstream
  exact hu.setTrack (trackStream_rewound_bidx hstream) trk f

/-- Every body that finishes keeps the invariant. -/
theorem commandBody_keeps_inv (i : Instr) : Keeps Inv (commandBody i) := by
  intro s t hs h
  have hacc (v : Word) : Inv (s.setCrcAcc v) := hs.setUnconstrained v s.pending s.readLog s.draws
  cases i with
  | nop => cases h; exact hs
  | crcInit | crcByte => cases h; exact hacc _
  | crcTbuf | crcPbuf =>
    obtain ⟨v, rfl⟩ := crcRangeBody_eq_ok h
    exact hacc v
  | bwSetidx imm26 =>
    cases h
    refine hs.setBidx ?_
    rw [zext32, BitVec.toNat_setWidth]
    exact (Nat.mod_le _ _).trans_lt imm26.isLt
  | bwByte v => exact inv_keptByCursorWrites.byteBody v s t hs h
  | bw4and4 v => exact inv_keptByCursorWrites.w44Body v s t hs h
  | bwSync => exact inv_keptByCursorWrites.syncBody s t hs h
  | bwClear => cases h; exact hs.clearTbuf
  | seEncode l => exact inv_keptByEncode l.toNat s t hs h
  | seEmit => exact inv_keptByCursorWrites.emitBody s t hs h
  | teEncode trk f => exact inv_keptByTrack trk f s t hs h

theorem exec_keeps_inv {i : Instr} {s t : State} (hs : Inv s) (hlegal : wordLegal (encode i) = true)
    (h : exec i s = .next t) : Inv t := by
  obtain hbody | ⟨c, hbody, rfl⟩ := exec_eq_next.mp h
  · exact commandBody_keeps_inv i s t hs hbody
  · exact hs.enterLegal hlegal ((commandBody_raised hbody).imp And.left And.left)

theorem hostEffect_keeps_inv {act : HostAction} {s t : State} (hs : Inv s) (h : HostEffect s act t) : Inv t := by
  cases h with
  | read w addr log draws => exact hs.setUnconstrained s.crcAcc s.pending log draws
  | store addr v sp i hsp hi => exact hs.memWrite v hsp hi
  | nothing => exact hs
  | illegal w e hfree hw => exact hs.enterIllegal (wordLegal_of_decode_error hw)
  | command w i t hfree hw hexec =>
    exact exec_keeps_inv hs (by rw [encode_of_decode hw]; exact wordLegal_of_decode_ok hw) hexec
  | reset => exact Inv.resetEngine s

/-- Settles O51: every field of the reset state is written out in R39. -/
theorem resetMeetsTheInvariant : Obligations.ResetMeetsTheInvariant := Inv.reset

/-- Settles O52, by the effect of the step's interaction (`step_effect`): a command's body keeps the invariant, piece by piece, and
its architected faults record legal words; TE_ENCODE's cursor is counted to 50632 (`trackStream_advances`). -/
theorem everyStepKeepsTheInvariant : Obligations.EveryStepKeepsTheInvariant := by
  intro s t hs h
  obtain ⟨-, rfl⟩ | ⟨act, rest, -, heffect⟩ := step_effect h
  · exact hs
  · exact hostEffect_keeps_inv (hs.setUnconstrained s.crcAcc rest s.readLog s.draws) heffect

end Sys2Proof.Machine
end

section
/-! ## Proofs: what a step writes (spec/10_state.md R23, R28, spec/20_memory.md R50) -/

namespace Sys2Proof.Machine

@[simp] theorem memWrite_status (sp : Space) (a : Nat) (v : Byte) (s : State) : (memWrite sp a v s).status = s.status :=
  setMem_status s sp _

@[simp] theorem memWrite_faultcmd (sp : Space) (a : Nat) (v : Byte) (s : State) :
    (memWrite sp a v s).faultcmd = s.faultcmd :=
  setMem_faultcmd s sp _

@[simp] theorem memWrite_chainMode (sp : Space) (a : Nat) (v : Byte) (s : State) :
    (memWrite sp a v s).chainMode = s.chainMode :=
  setMem_chainMode s sp _

/-! ### CONFIG (R28) -/

theorem exec_chainMode {i : Instr} {s t : State} (h : exec i s = .next t) : t.chainMode = s.chainMode := by
  obtain hwrites | ⟨c, rfl, -⟩ := exec_next_cases h
  · exact hwrites.chainMode
  · rfl

theorem hostEffect_chainMode {act : HostAction} {s t : State} (h : HostEffect s act t) : t.chainMode = s.chainMode := by
  cases h with
  | read | nothing | illegal | reset => rfl
  | store => exact memWrite_chainMode _ _ _ s
  | command w i t hfree hw hexec => exact exec_chainMode hexec

theorem step_chainMode {s t : State} (h : step s = .next t) : t.chainMode = s.chainMode := by
  obtain ⟨-, rfl⟩ | ⟨act, rest, -, heffect⟩ := step_effect h
  · rfl
  · have hmode := hostEffect_chainMode heffect
    exact hmode

/-- Settles O53: CONFIG reads the constant CHAIN_MODE, which no step writes (`step_chainMode`). -/
theorem configNeverChanges : Obligations.ConfigNeverChanges := by
  refine ⟨fun s => ?_, fun s t h => ?_⟩
  · simp only [readReg]
    cases s.chainMode <;> decide
  · have hmode := step_chainMode h
    exact ⟨hmode, congrArg configWord hmode⟩

/-! ### STATUS and FAULTCMD (R23, R203) -/

/-- The codes of R201, as the words that STATUS is made of. -/
theorem exists_code_statusWord (c : FaultCode) :
    ∃ code : Word, (code = 1#32 ∨ code = 2#32 ∨ code = 3#32) ∧ statusWord c = (code <<< 8) ||| 1#32 := by
  refine ⟨(faultNumber c).setWidth 32, ?_, rfl⟩
  cases c <;> decide

/-- An interaction other than reset leaves STATUS and FAULTCMD, or is a word written to CMD that enters a fault and changes nothing
else. -/
theorem hostEffect_fault_cases {act : HostAction} {s t : State} (h : HostEffect s act t) :
    (t.status = s.status ∧ t.faultcmd = s.faultcmd) ∨ act = .reset ∨
      ∃ w c, act = .write32 cmdAddr w ∧ t = enterFault c w s := by
  cases h with
  | read | nothing => exact .inl ⟨rfl, rfl⟩
  | store => exact .inl ⟨memWrite_status _ _ _ s, memWrite_faultcmd _ _ _ s⟩
  | illegal w => exact .inr (.inr ⟨w, .illegalCmd, rfl, rfl⟩)
  | command w i t hfree hw hexec =>
    obtain hwrites | ⟨c, rfl, -⟩ := exec_next_cases hexec
    · exact .inl ⟨hwrites.status, hwrites.faultcmd⟩
    · exact .inr (.inr ⟨w, c, rfl, by rw [encode_of_decode hw]⟩)
  | reset => exact .inr (.inl rfl)

/-- Settles O54: the clause about a step by the effect of its interaction (`hostEffect_fault_cases`), the clauses about a command by
its write set (`exec_next_cases`). -/
theorem onlyNamedCommandsWriteEachPiece : Obligations.OnlyNamedCommandsWriteEachPiece := by
  refine ⟨fun s t h => ?_, fun i s t h => ?_⟩
  · obtain ⟨-, rfl⟩ | ⟨act, rest, hpending, heffect⟩ := step_effect h
    · exact .inl ⟨rfl, rfl⟩
    · obtain hsame | rfl | ⟨w, c, rfl, rfl⟩ := hostEffect_fault_cases heffect
      · exact .inl hsame
      · exact .inr (.inl ⟨rest, hpending⟩)
      · obtain ⟨code, hcode, hstatus⟩ := exists_code_statusWord c
        exact .inr (.inr ⟨w, rest, code, hpending, hcode, by rw [enterFault, hstatus]⟩)
  · obtain hwrites | ⟨c, rfl, hchecks⟩ := exec_next_cases h
    · exact ⟨fun _ _ => ⟨hwrites.status, hwrites.faultcmd⟩, hwrites.crcAcc, hwrites.bidx,
        fun htrack => ⟨hwrites.bitcnt htrack, hwrites.trkfmt htrack⟩,
        fun htbuf a => by rw [hwrites.tbuf htbuf], fun hebuf a => by rw [hwrites.ebuf hebuf],
        fun a => by rw [hwrites.pbuf], hwrites.chainMode, hwrites.draws, hwrites.pending, hwrites.readLog⟩
    · have hchecked : capacityBits i = none → checkedRange i ≠ none := by
        rintro hcap hrange
        simp [hcap, hrange] at hchecks
      simp only [enterFault_crcAcc, enterFault_bidx, enterFault_bitcnt, enterFault_trkfmt, enterFault_pbuf, enterFault_tbuf,
        enterFault_ebuf, enterFault_chainMode, enterFault_draws, enterFault_pending, enterFault_readLog]
      exact ⟨fun hcap hrange => absurd hrange (hchecked hcap), by simp⟩

end Sys2Proof.Machine
end

section
/-! ## Proofs: the step on a command, a reset and a register read (spec/20_memory.md R51, R52, spec/30_encoding.md R75) -/

namespace Sys2Proof.Machine

theorem hostStep_write_cmd (w : Word) (s : State) : hostStep (.write32 cmdAddr w) s = issueCommand w s := rfl

theorem issueCommand_of_decode {w : Word} {i : Instr} {s : State} (hfree : faultFlag s = false) (hw : decode w = .ok i) :
    issueCommand w s = exec i s := by
  simp [issueCommand, hfree, hw]

/-- Settles O6: the write to CMD issues the word, and with no fault recorded the decoded command runs. -/
theorem stepRunsDecodedInstruction : Obligations.StepRunsDecodedInstruction := by
  intro s w rest i hpending hfree hw
  rw [step_of_pending hpending]
  exact (hostStep_write_cmd w _).trans (issueCommand_of_decode hfree hw)

/-- Settles O11: the reset action writes every field but CONFIG's constant and the model's own (log 13). -/
theorem resetLeavesTheResetValues : Obligations.ResetLeavesTheResetValues := by
  refine ⟨⟨rfl, rfl, rfl, rfl, rfl, rfl, rfl, fun sp a => ?_⟩, fun s rest hpending => ?_⟩
  · cases sp <;> rfl
  · rw [step_of_pending hpending]
    rfl

/-- A 32-bit read of a register with storage, or of CRC_OUT or CONFIG, logs its value. -/
theorem hostRead_register {addr : BitVec 16} {r : Reg} (haddr : resolve .w32 addr = .register r) (hr : r ≠ .cmd) (s : State) :
    hostRead .w32 addr s = .next (s.logRead (.word (readReg r s))) := by
  unfold hostRead
  rw [haddr]
  cases r with
  | cmd => exact absurd rfl hr
  | _ => rfl

theorem step_of_register_read {s : State} {rest : List HostAction} {addr : BitVec 16} {r : Reg}
    (hpending : s.pending = .read .w32 addr :: rest) (haddr : resolve .w32 addr = .register r) (hr : r ≠ .cmd) :
    step s = .next { s with pending := rest, readLog := .word (readReg r s) :: s.readLog } := by
  rw [step_of_pending hpending]
  refine (hostRead_register haddr hr _).trans ?_
  cases r <;> rfl

theorem crcOut_eq_not (acc : Word) : crcOut acc = ~~~ acc := BitVec.xor_allOnes

theorem configWord_eq_ite (mode : ChainMode) : configWord mode = if mode = .ref then 1#32 else 0#32 := by
  cases mode <;> rfl

/-- Settles O44, one offset of R23 at a time; CMD's read is the draw of log 4. -/
theorem hostReadsEachRegister : Obligations.HostReadsEachRegister := by
  intro s rest addr hpending
  refine ⟨?cmd, ?status, ?faultcmd, ?crcAcc, ?crcOut, ?bidx, ?bitcnt, ?trkfmt, ?config⟩ <;> rintro rfl
  case cmd => rw [step_of_pending hpending]; rfl
  case status => exact step_of_register_read (r := .status) hpending rfl (by decide)
  case faultcmd => exact step_of_register_read (r := .faultcmd) hpending rfl (by decide)
  case crcAcc => exact step_of_register_read (r := .crcAcc) hpending rfl (by decide)
  case crcOut =>
    rw [← crcOut_eq_not]
    exact step_of_register_read (r := .crcOut) hpending rfl (by decide)
  case bidx => exact step_of_register_read (r := .bidx) hpending rfl (by decide)
  case bitcnt => exact step_of_register_read (r := .bitcnt) hpending rfl (by decide)
  case trkfmt => exact step_of_register_read (r := .trkfmt) hpending rfl (by decide)
  case config =>
    rw [← configWord_eq_ite]
    exact step_of_register_read (r := .config) hpending rfl (by decide)

end Sys2Proof.Machine
end

section
/-! ## Proofs: no write but a clear takes a TBUF bit away (spec/20_memory.md R53, spec/41_bit_writer.md R122) -/

namespace Sys2Proof.Machine

/-! ### RAM contents that only gain bits -/

/-- m' keeps every set bit of m and defines the bytes that m defines. -/
def BitsKept (m m' : Memory) : Prop :=
  ∀ k, (Memory.bit m k = some true → Memory.bit m' k = some true) ∧ (Memory.bit m' k).isSome = (Memory.bit m k).isSome

namespace BitsKept

theorem refl (m : Memory) : BitsKept m m := fun _ => ⟨id, rfl⟩

theorem trans {m m' m'' : Memory} (h : BitsKept m m') (h' : BitsKept m' m'') : BitsKept m m'' :=
  fun k => ⟨fun hset => (h' k).1 ((h k).1 hset), (h' k).2.trans (h k).2⟩

end BitsKept

/-- The stores of `put8` are ORs: a bit they reach is the old one or a bit of the value. -/
theorem put8_bitsKept (idx : Nat) (v : Byte) (s : State) : BitsKept s.tbuf (put8 idx v s).tbuf := by
  intro k
  rw [bit_put8]
  split
  · exact ⟨fun hset => by simp [hset], Option.isSome_map⟩
  · exact ⟨id, rfl⟩

/-! ### Commands -/

/-- The cursor writes of the Bit Writer keep every set bit: a byte is put, and the skipped bits of a sync word are not written. -/
theorem bitsKept_keptByCursorWrites (m : Memory) : KeptByCursorWrites (fun s => BitsKept m s.tbuf) where
  put v s _ hs := by
    rw [putByte_tbuf]
    exact hs.trans (put8_bitsKept _ v s)
  skip _ _ hs := hs

theorem commandBody_bitsKept {i : Instr} {s t : State} (hclears : clearsTbuf i = false) (h : commandBody i s = .ok t) :
    BitsKept s.tbuf t.tbuf := by
  have hcursor := bitsKept_keptByCursorWrites s.tbuf
  have hunwritten (hwrites : writesTbuf i = false) : BitsKept s.tbuf t.tbuf := by
    rw [(commandBody_writesOnlyNamed h).tbuf hwrites]
    exact .refl s.tbuf
  cases i with
  | bwByte v => exact hcursor.byteBody v s t (.refl _) h
  | bw4and4 v => exact hcursor.w44Body v s t (.refl _) h
  | bwSync => exact hcursor.syncBody s t (.refl _) h
  | seEmit => exact hcursor.emitBody s t (.refl _) h
  | bwClear | teEncode => cases hclears
  | nop | crcInit | crcByte | crcTbuf | crcPbuf | bwSetidx | seEncode => exact hunwritten rfl

/-- Settles O27: a finished body only ORs into TBUF, and fault entry leaves it alone. -/
theorem writesNeverClearABit : Obligations.WritesNeverClearABit := by
  intro i s t hclears h
  obtain hbody | ⟨c, -, rfl⟩ := exec_eq_next.mp h
  · exact commandBody_bitsKept hclears hbody
  · exact BitsKept.refl s.tbuf

end Sys2Proof.Machine
end

section
/-! ## Proofs: the host's access to RAM bytes and register lanes (spec/20_memory.md R51, R52, R54, R59) -/

namespace Sys2Proof.Machine

/-! ### The window of a RAM (R51) -/

/-- Where the host's window shows the first byte of a RAM. -/
def Space.windowBase : Space → Nat
  | .pbuf => 0x0000
  | .tbuf => 0x2000
  | .ebuf => 0x4000

theorem Space.windowBase_add_lt {sp : Space} {i : Nat} (hi : i < sp.size) : sp.windowBase + i < 2 ^ 16 := by
  cases sp <;> simp only [Space.size, Space.windowBase, pbufBytes, tbufBytes, ebufBytes] at hi ⊢ <;> omega

theorem locate_windowBase_add {sp : Space} {i : Nat} (hi : i < sp.size) : locate (sp.windowBase + i) = .ram sp i := by
  cases sp <;> simp only [Space.size, pbufBytes, tbufBytes, ebufBytes] at hi
  case pbuf =>
    change locate (0x0000 + i) = _
    rw [Nat.zero_add]
    exact if_pos hi
  case tbuf =>
    change locate (0x2000 + i) = _
    unfold locate
    rw [if_neg (by omega), if_neg (by omega), if_pos (by omega), Nat.add_sub_cancel_left]
  case ebuf =>
    change locate (0x4000 + i) = _
    unfold locate
    rw [if_neg (by omega), if_neg (by omega), if_neg (by omega), if_neg (by omega), if_pos (by omega),
      Nat.add_sub_cancel_left]

/-- An 8-bit access at a RAM byte's window address reaches that byte. -/
theorem resolve_ramByte {sp : Space} {i : Nat} (hi : i < sp.size) :
    resolve .w8 (BitVec.ofNat 16 (sp.windowBase + i)) = .ramByte sp i := by
  have hlocate : locate (BitVec.ofNat 16 (sp.windowBase + i)).toNat = .ram sp i := by
    rw [BitVec.toNat_ofNat, Nat.mod_eq_of_lt (Space.windowBase_add_lt hi)]
    exact locate_windowBase_add hi
  unfold resolve
  rw [hlocate]

/-! ### Accesses to a RAM byte (R52, R206) -/

theorem hostRead_ramByte_defined {w : Width} {addr : BitVec 16} {sp : Space} {i : Nat} {s : State} {v : Byte}
    (haddr : resolve w addr = .ramByte sp i) (hread : Memory.read (s.mem sp) i = some v) :
    hostRead w addr s = .next (s.logRead (.byte v)) := by
  simp only [hostRead, haddr, hread]

theorem hostRead_ramByte_undefined {w : Width} {addr : BitVec 16} {sp : Space} {i : Nat} {s : State}
    (haddr : resolve w addr = .ramByte sp i) (hread : Memory.read (s.mem sp) i = none) :
    hostRead w addr s = .fault (.undefRead sp i) := by
  simp only [hostRead, haddr, hread]

theorem hostWrite8_store {addr : BitVec 16} {sp : Space} {i : Nat} (haddr : resolve .w8 addr = .ramByte sp i)
    (hsp : sp ≠ .ebuf) (v : Byte) (s : State) : hostWrite8 addr v s = .next (memWrite sp i v s) := by
  unfold hostWrite8
  rw [haddr]
  cases sp with
  | ebuf => exact absurd rfl hsp
  | pbuf | tbuf => rfl

theorem hostWrite8_ebuf {addr : BitVec 16} {i : Nat} (haddr : resolve .w8 addr = .ramByte .ebuf i) (v : Byte) (s : State) :
    hostWrite8 addr v s = .next s := by
  unfold hostWrite8
  rw [haddr]

/-- Settles O45: the access resolves to the RAM byte, which is defined or not. -/
theorem hostReadsRamBytes : Obligations.HostReadsRamBytes := by
  intro s rest sp base i hbase hi hpending
  obtain rfl : base = sp.windowBase := by
    simp only [List.mem_cons, Prod.mk.injEq, List.not_mem_nil, or_false] at hbase
    obtain ⟨rfl, rfl⟩ | ⟨rfl, rfl⟩ | ⟨rfl, rfl⟩ := hbase <;> rfl
  have hmem : ({ s with pending := rest } : State).mem sp = s.mem sp := by cases sp <;> rfl
  rw [step_of_pending hpending, ← hmem]
  exact ⟨fun v hread => hostRead_ramByte_defined (resolve_ramByte hi) hread, hostRead_ramByte_undefined (resolve_ramByte hi)⟩

/-- An 8-bit write to a byte of PBUF or TBUF stores it. -/
theorem step_of_ramByte_write {s : State} {rest : List HostAction} {sp : Space} {i : Nat} {v : Byte} (hi : i < sp.size)
    (hsp : sp ≠ .ebuf) (hpending : s.pending = .write8 (BitVec.ofNat 16 (sp.windowBase + i)) v :: rest) :
    step s = .next (memWrite sp i v { s with pending := rest }) := by
  rw [step_of_pending hpending]
  exact hostWrite8_store (resolve_ramByte hi) hsp v _

/-- Settles O46: PBUF and TBUF take the byte, and read after write gives their contents; EBUF takes nothing. -/
theorem hostWritesRamBytes : Obligations.HostWritesRamBytes := by
  intro s rest i v
  refine ⟨fun hi hpending => ?pbuf, fun hi hpending => ?tbuf, fun hi hpending => ?ebuf⟩
  case pbuf =>
    have hstep := step_of_ramByte_write (sp := .pbuf) hi (by decide) (by rw [hpending, Space.windowBase, Nat.zero_add])
    exact ⟨_, hstep, rfl, fun a => read_write s.pbuf i a v⟩
  case tbuf =>
    have hstep := step_of_ramByte_write (sp := .tbuf) hi (by decide) hpending
    exact ⟨_, hstep, rfl, fun a => read_write s.tbuf i a v⟩
  case ebuf =>
    rw [step_of_pending hpending]
    exact hostWrite8_ebuf (resolve_ramByte (sp := .ebuf) hi) v _

/-! ### Every read (R59, R205) -/

/-- A read with a next state hands one value to the host and may count a draw. -/
theorem hostRead_eq_next {w : Width} {addr : BitVec 16} {s t : State} (h : hostRead w addr s = .next t) :
    ∃ x n, t = { s with readLog := x :: s.readLog, draws := n } := by
  unfold hostRead at h
  split at h
  case h_1 =>
    split at h
    · cases h
      exact ⟨_, s.draws, rfl⟩
    · cases h
  case h_3 =>
    cases h
    exact ⟨_, s.draws, rfl⟩
  case h_2 | h_4 =>
    cases h
    exact ⟨_, s.draws + 1, rfl⟩
  case h_5 => cases h

/-- Settles O49: whatever the address reaches, a read only logs a value and may count a draw. -/
theorem hostReadsHaveNoSideEffect : Obligations.HostReadsHaveNoSideEffect := by
  intro s t w addr rest hpending h
  rw [step_of_pending hpending] at h
  exact hostRead_eq_next h

/-! ### The lanes of a register (R54) -/

/-- Settles O50: adjacent lanes join to the field they cover, from lane 3 down to lane 0. -/
theorem registerLanesMakeUpTheWord : Obligations.RegisterLanesMakeUpTheWord := by
  intro w
  unfold registerLane
  rw [BitVec.extractLsb'_append_extractLsb'_eq_extractLsb' (by rfl),
    BitVec.extractLsb'_append_extractLsb'_eq_extractLsb' (by rfl)]
  exact BitVec.extractLsb'_append_extractLsb' (w := 24)

end Sys2Proof.Machine
end

section
/-! ## Proofs: encoding, and the write to CMD (spec/30_encoding.md R72 to R79) -/

namespace Sys2Proof

/-! ### Decoding the word of a command (R72 to R74) -/

/-- The middle part of a word made of three parts. -/
theorem mid_of_append {h m l : Nat} (x : BitVec h) (y : BitVec m) (z : BitVec l) : (x ++ y ++ z).extractLsb' l m = y :=
  (field_of_append_high (lo := 0) (x ++ y) z).trans (low_of_append x y)

theorem decodeZ_append (op : BitVec 6) (i : Instr) : decodeZ (op ++ 0#26) i = .ok i :=
  decodeZ_eq_ok.mpr ⟨low_of_append op 0#26, rfl⟩

theorem decodeI8_append (op : BitVec 6) (v : Byte) (mk : Byte → Instr) : decodeI8 (op ++ 0#18 ++ v) mk = .ok (mk v) :=
  decodeI8_eq_ok.mpr ⟨mid_of_append op 0#18 v, congrArg mk (low_of_append (op ++ 0#18) v)⟩

theorem decodeR_append (op : BitVec 6) (a b : BitVec 13) (mk : BitVec 13 → BitVec 13 → Instr) :
    decodeR (op ++ a ++ b) mk = .ok (mk a b) :=
  decodeR_eq_ok.mpr (congrArg₂ mk (mid_of_append op a b) (low_of_append (op ++ a) b))

theorem decodeX26_append (op : BitVec 6) (n : BitVec 26) (mk : BitVec 26 → Instr) : decodeX26 (op ++ n) mk = .ok (mk n) :=
  decodeX26_eq_ok.mpr (congrArg mk (low_of_append op n))

theorem decodeS_append (op : BitVec 6) (l : BitVec 4) (mk : BitVec 4 → Instr) : decodeS (op ++ 0#22 ++ l) mk = .ok (mk l) :=
  decodeS_eq_ok.mpr ⟨mid_of_append op 0#22 l, congrArg mk (low_of_append (op ++ 0#22) l)⟩

theorem decodeT_append (op : BitVec 6) (f : Interleave) (trk : Byte) (mk : Byte → Interleave → Instr) :
    decodeT (op ++ 0#17 ++ bitOfInterleave f ++ trk) mk = .ok (mk trk f) := by
  have hzero : (op ++ 0#17 ++ bitOfInterleave f ++ trk).extractLsb' 9 17 = 0#17 :=
    (field_of_append_high (lo := 1) (op ++ 0#17 ++ bitOfInterleave f) trk).trans (mid_of_append op 0#17 (bitOfInterleave f))
  have hf : interleaveOfBit ((op ++ 0#17 ++ bitOfInterleave f ++ trk).extractLsb' 8 1) = f := by
    rw [mid_of_append, interleaveOfBit_bitOfInterleave]
  exact decodeT_eq_ok.mpr ⟨hzero, congrArg₂ mk (low_of_append _ trk) hf⟩

/-- The word of a command has the opcode of its row in bits [31:26] (R71, R74). -/
theorem opField_encode (i : Instr) : opField (encode i) = Laws.opcodeOf i := by
  cases i with
  | nop => exact Laws.OpcodeField.nop
  | crcInit => exact Laws.OpcodeField.crcInit
  | crcByte v => exact Laws.OpcodeField.crcByte v
  | crcTbuf a b => exact Laws.OpcodeField.crcTbuf a b
  | crcPbuf a b => exact Laws.OpcodeField.crcPbuf a b
  | bwSetidx n => exact Laws.OpcodeField.bwSetidx n
  | bwByte v => exact Laws.OpcodeField.bwByte v
  | bw4and4 v => exact Laws.OpcodeField.bw4and4 v
  | bwSync => exact Laws.OpcodeField.bwSync
  | bwClear => exact Laws.OpcodeField.bwClear
  | seEncode l => exact Laws.OpcodeField.seEncode l
  | seEmit => exact Laws.OpcodeField.seEmit
  | teEncode trk f => exact Laws.OpcodeField.teEncode trk f

/-- The opcode of a command's word selects the decoder of its format, which reads the operands back. -/
theorem decode_encode (i : Instr) : decode (encode i) = .ok i := by
  unfold decode
  rw [opField_encode]
  cases i with
  | nop | crcInit | bwSync | bwClear | seEmit => exact decodeZ_append _ _
  | crcByte v | bwByte v | bw4and4 v => exact decodeI8_append _ v _
  | crcTbuf a b | crcPbuf a b => exact decodeR_append _ a b _
  | bwSetidx n => exact decodeX26_append _ n _
  | seEncode l => exact decodeS_append _ l _
  | teEncode trk f => exact decodeT_append _ f trk _

/-- Settles O1: every arm of the decoder undoes its arm of the encoder. -/
theorem decodeInvertsEncode : Obligations.DecodeInvertsEncode := decode_encode

/-- Settles O2: the fields the decoder reads and those it requires to be 0 make up the whole word. -/
theorem encodeInvertsDecode : Obligations.EncodeInvertsDecode := fun _ _ => encode_of_decode

/-- Settles O3: both sides ask for an opcode of R74 and for the reserved bits of its format to be 0. -/
theorem decodeAcceptsExactlyLegalWords : Obligations.DecodeAcceptsExactlyLegalWords := exists_decode_iff_wordLegal

/-- Settles O4, each example by running the decoder. -/
theorem decodedWordExamples : Obligations.DecodedWordExamples :=
  ⟨rfl, rfl, rfl, rfl, rfl, rfl, rfl, rfl, rfl, rfl, rfl, rfl, rfl, rfl, rfl⟩

/-! ### Lines the assembler accepts (R73, R77) -/

theorem lt_two_pow_iff_exists_toNat {n v : Nat} : v < 2 ^ n ↔ ∃ x : BitVec n, x.toNat = v :=
  ⟨fun h => ⟨BitVec.ofNatLT v h, rfl⟩, fun ⟨x, hx⟩ => hx ▸ x.isLt⟩

theorem lt_two_iff_exists_interleave {v : Nat} : v < 2 ↔ ∃ f, (bitOfInterleave f).toNat = v := by
  constructor
  · intro h
    interval_cases v
    · exact ⟨.primary, rfl⟩
    · exact ⟨.alternate, rfl⟩
  · rintro ⟨f, rfl⟩
    exact (bitOfInterleave f).isLt

theorem admits_z_iff {ops : List Nat} : Format.z.admits ops = true ↔ ops = [] := by
  cases ops <;> simp [Format.admits]

/-- A format of one operand, of the width its field has in R73, admits exactly the lists of one such operand. -/
theorem admits_one_iff {fmt : Format} {n : Nat} (hone : ∀ v, fmt.admits [v] = decide (v < 2 ^ n)) (hnone : fmt.admits [] = false)
    (hmore : ∀ v v' vs, fmt.admits (v :: v' :: vs) = false) {ops : List Nat} :
    fmt.admits ops = true ↔ ∃ x : BitVec n, ops = [x.toNat] := by
  match ops with
  | [] => simp [hnone]
  | [v] => simp [hone, lt_two_pow_iff_exists_toNat, eq_comm]
  | v :: v' :: vs => simp [hmore]

theorem admits_i8_iff {ops : List Nat} : Format.i8.admits ops = true ↔ ∃ v : Byte, ops = [v.toNat] :=
  admits_one_iff (fun _ => rfl) rfl (fun _ _ _ => rfl)

theorem admits_x26_iff {ops : List Nat} : Format.x26.admits ops = true ↔ ∃ n : BitVec 26, ops = [n.toNat] :=
  admits_one_iff (fun _ => rfl) rfl (fun _ _ _ => rfl)

theorem admits_s_iff {ops : List Nat} : Format.s.admits ops = true ↔ ∃ l : BitVec 4, ops = [l.toNat] :=
  admits_one_iff (fun _ => rfl) rfl (fun _ _ _ => rfl)

theorem admits_r_iff {ops : List Nat} : Format.r.admits ops = true ↔ ∃ a b : BitVec 13, ops = [a.toNat, b.toNat] := by
  match ops with
  | [] | [_] | _ :: _ :: _ :: _ => simp [Format.admits]
  | [a, b] =>
    simp only [Format.admits, Bool.and_eq_true, decide_eq_true_eq, lt_two_pow_iff_exists_toNat]
    simp [eq_comm]

theorem admits_t_iff {ops : List Nat} :
    Format.t.admits ops = true ↔ ∃ (trk : Byte) (f : Interleave), ops = [trk.toNat, (bitOfInterleave f).toNat] := by
  match ops with
  | [] | [_] | _ :: _ :: _ :: _ => simp [Format.admits]
  | [trk, f] =>
    simp only [Format.admits, Bool.and_eq_true, decide_eq_true_eq, lt_two_pow_iff_exists_toNat, lt_two_iff_exists_interleave]
    simp [eq_comm]

end Sys2Proof

namespace Sys2Proof.Machine

theorem sourceOf_teEncode (trk : Byte) (f : Interleave) :
    sourceOf (.teEncode trk f) = ⟨.teEncode, [trk.toNat, (bitOfInterleave f).toNat]⟩ := by
  cases f <;> rfl

/-- A line with the mnemonic of a command and operands that fit writes a command. -/
theorem exists_sourceOf_of_wellFormed {line : Source} (h : line.wellFormed = true) : ∃ i, line = sourceOf i := by
  obtain ⟨m, ops⟩ := line
  cases m with
  | nop => obtain rfl := admits_z_iff.mp h; exact ⟨.nop, rfl⟩
  | crcInit => obtain rfl := admits_z_iff.mp h; exact ⟨.crcInit, rfl⟩
  | crcByte => obtain ⟨v, rfl⟩ := admits_i8_iff.mp h; exact ⟨.crcByte v, rfl⟩
  | crcTbuf => obtain ⟨a, b, rfl⟩ := admits_r_iff.mp h; exact ⟨.crcTbuf a b, rfl⟩
  | crcPbuf => obtain ⟨a, b, rfl⟩ := admits_r_iff.mp h; exact ⟨.crcPbuf a b, rfl⟩
  | bwSetidx => obtain ⟨n, rfl⟩ := admits_x26_iff.mp h; exact ⟨.bwSetidx n, rfl⟩
  | bwByte => obtain ⟨v, rfl⟩ := admits_i8_iff.mp h; exact ⟨.bwByte v, rfl⟩
  | bw4and4 => obtain ⟨v, rfl⟩ := admits_i8_iff.mp h; exact ⟨.bw4and4 v, rfl⟩
  | bwSync => obtain rfl := admits_z_iff.mp h; exact ⟨.bwSync, rfl⟩
  | bwClear => obtain rfl := admits_z_iff.mp h; exact ⟨.bwClear, rfl⟩
  | seEncode => obtain ⟨l, rfl⟩ := admits_s_iff.mp h; exact ⟨.seEncode l, rfl⟩
  | seEmit => obtain rfl := admits_z_iff.mp h; exact ⟨.seEmit, rfl⟩
  | teEncode => obtain ⟨trk, f, rfl⟩ := admits_t_iff.mp h; exact ⟨.teEncode trk f, (sourceOf_teEncode trk f).symm⟩

theorem sourceOf_wellFormed (i : Instr) : (sourceOf i).wellFormed = true := by
  cases i with
  | nop | crcInit | bwSync | bwClear | seEmit => rfl
  | crcByte v | bwByte v | bw4and4 v => exact admits_i8_iff.mpr ⟨v, rfl⟩
  | crcTbuf a b | crcPbuf a b => exact admits_r_iff.mpr ⟨a, b, rfl⟩
  | bwSetidx n => exact admits_x26_iff.mpr ⟨n, rfl⟩
  | seEncode l => exact admits_s_iff.mpr ⟨l, rfl⟩
  | teEncode trk f => rw [sourceOf_teEncode]; exact admits_t_iff.mpr ⟨trk, f, rfl⟩

/-- The assembler reads back the command a line was written from. -/
theorem assemble_sourceOf (i : Instr) : assemble (sourceOf i) = some i := by
  rw [assemble, if_pos (sourceOf_wellFormed i)]
  cases i with
  | teEncode trk f => simp [sourceOf_teEncode]
  | _ => simp [sourceOf]

/-- The assembler accepts the lines that commands write, and no other (R77). -/
theorem assemble_eq_some_iff {line : Source} {i : Instr} : assemble line = some i ↔ line = sourceOf i := by
  constructor
  · intro h
    have hwf : line.wellFormed = true := by
      by_contra hwf
      rw [assemble, if_neg hwf] at h
      cases h
    obtain ⟨j, rfl⟩ := exists_sourceOf_of_wellFormed hwf
    rw [assemble_sourceOf] at h
    cases h
    rfl
  · rintro rfl
    exact assemble_sourceOf i

theorem assemble_isSome (line : Source) : (assemble line).isSome = line.wellFormed := by
  cases hwf : line.wellFormed with
  | false => simp [assemble, hwf]
  | true =>
    obtain ⟨i, rfl⟩ := exists_sourceOf_of_wellFormed hwf
    rw [assemble_sourceOf, Option.isSome_some]

/-! ### The row and the operand fields of a command's word (R73, R74) -/

/-- Every mask of the opcode map covers the opcode, so a row is selected only by words with its opcode. -/
theorem opField_of_selects {row : OpRow} (hrow : row ∈ opcodeMap) {w : Word} (h : row.selects w = true) :
    opField w = opField row.pattern := by
  have hmask : ∀ row ∈ opcodeMap, opField row.mask = BitVec.allOnes 6 := by decide
  have hpattern : w &&& row.mask = row.pattern := beq_iff_eq.mp h
  calc opField w = opField w &&& opField row.mask := by rw [hmask row hrow, BitVec.and_allOnes]
    _ = opField (w &&& row.mask) := BitVec.extractLsb'_and.symm
    _ = opField row.pattern := by rw [hpattern]

/-- The opcodes of R74 tell its rows apart. -/
theorem mnemonic_eq_iff_opcode (i : Instr) :
    ∀ row ∈ opcodeMap, row.mnemonic = (sourceOf i).mnemonic ↔ opField row.pattern = Laws.opcodeOf i := by
  cases i with
  | teEncode trk f => rw [sourceOf_teEncode]; simp only [Laws.opcodeOf]; decide
  | _ => simp only [sourceOf, Laws.opcodeOf]; decide

theorem row_eq_of_mnemonic_eq : ∀ row ∈ opcodeMap, ∀ row' ∈ opcodeMap, row.mnemonic = row'.mnemonic → row = row' := by
  decide

theorem wordLegal_encode (i : Instr) : wordLegal (encode i) = true := wordLegal_of_decode_ok (decode_encode i)

/-- A command's word selects the row of its mnemonic alone: it selects some row, and the opcode says which. -/
theorem selects_encode_iff (i : Instr) {row : OpRow} (hrow : row ∈ opcodeMap) :
    row.selects (encode i) = true ↔ row.mnemonic = (sourceOf i).mnemonic := by
  have mnemonic_of_selects {r : OpRow} (hr : r ∈ opcodeMap) (h : r.selects (encode i) = true) :
      r.mnemonic = (sourceOf i).mnemonic := by
    rw [mnemonic_eq_iff_opcode i r hr, ← opField_of_selects hr h, opField_encode]
  refine ⟨mnemonic_of_selects hrow, fun h => ?_⟩
  obtain ⟨own, hown, hselects⟩ := List.any_eq_true.mp (wordLegal_encode i)
  rwa [row_eq_of_mnemonic_eq row hrow own hown (h.trans (mnemonic_of_selects hown hselects).symm)]

/-- The word of a command holds its operands in the fields of R73. -/
theorem wordOperands_encode (i : Instr) : wordOperands (encode i) (sourceOf i).mnemonic.format = (sourceOf i).operands := by
  cases i with
  | nop | crcInit | bwSync | bwClear | seEmit => rfl
  | crcByte v | bwByte v | bw4and4 v | bwSetidx v | seEncode v =>
    exact congrArg (fun field => [BitVec.toNat field]) (low_of_append _ v)
  | crcTbuf a b | crcPbuf a b =>
    exact congrArg₂ (fun x y => [BitVec.toNat x, BitVec.toNat y]) (mid_of_append _ a b) (low_of_append _ b)
  | teEncode trk f =>
    rw [sourceOf_teEncode]
    exact congrArg₂ (fun x y => [BitVec.toNat x, BitVec.toNat y]) (low_of_append _ trk) (mid_of_append _ (bitOfInterleave f) trk)

/-- Settles O5: an accepted line is the one its command writes, so each clause is a fact about that command's word. -/
theorem assemblerRefusesOperandsThatDoNotFit : Obligations.AssemblerRefusesOperandsThatDoNotFit := by
  intro line
  refine ⟨assemble_isSome line, fun i h => ?_⟩
  obtain rfl := assemble_eq_some_iff.mp h
  exact ⟨rfl, wordLegal_encode i, fun _ hrow => selects_encode_iff i hrow, wordOperands_encode i⟩

/-! ### A write to CMD (R75) -/

theorem step_of_cmd_write {s : State} {w : Word} {rest : List HostAction} (hpending : s.pending = .write32 cmdAddr w :: rest) :
    step s = issueCommand w { s with pending := rest } :=
  (step_of_pending hpending).trans (hostStep_write_cmd w _)

theorem issueCommand_of_fault {w : Word} {s : State} (hfault : faultFlag s = true) : issueCommand w s = .next s := by
  simp [issueCommand, hfault]

theorem issueCommand_of_illegal {w : Word} {s : State} (hfree : faultFlag s = false) (hw : wordLegal w = false) :
    issueCommand w s = .next (enterFault .illegalCmd w s) := by
  cases hdecode : decode w with
  | error e => simp [issueCommand, hfree, hdecode]
  | ok i => exact absurd (wordLegal_of_decode_ok hdecode) (by simp [hw])

/-- Settles O7, one branch of the write to CMD a clause. -/
theorem cmdWriteFollowsTheDecodingRule : Obligations.CmdWriteFollowsTheDecodingRule := by
  intro s w rest hpending
  rw [step_of_cmd_write hpending]
  refine ⟨fun hfault => issueCommand_of_fault hfault, fun hfree hw => issueCommand_of_illegal hfree hw, fun hfree hw => ?_⟩
  obtain ⟨i, hi⟩ := (exists_decode_iff_wordLegal w).mpr hw
  exact ⟨i, encode_of_decode hi, issueCommand_of_decode hfree hi⟩

end Sys2Proof.Machine
end

section
/-! ## Proofs: the CRC step is polynomial division (spec/40_crc.md R101, spec/10_state.md R32)

A round of the division is linear over XOR, and a word whose low bits are 0 is only shifted by it. So the eight rounds of a word
are those of its low byte, which is what CRCT holds, and the shift of the rest. -/

namespace Sys2Proof.Machine

/-- Each entry of the default CRCT (log 7) is eight rounds on its index. -/
theorem crct_eq_crcBitStep_iterate : ∀ n, n < 256 → crct n = crcBitStep^[8] (BitVec.ofNat 32 n) := by
  decide +kernel

theorem crcBitStep_eq_xor (c : Word) : crcBitStep c = (c >>> 1) ^^^ (if c.getLsbD 0 then 0xEDB88320#32 else 0#32) := by
  unfold crcBitStep
  split
  · exact BitVec.xor_comm _ _
  · exact BitVec.xor_zero.symm

/-- One round is linear over XOR. -/
theorem crcBitStep_xor (x y : Word) : crcBitStep (x ^^^ y) = crcBitStep x ^^^ crcBitStep y := by
  have hpoly (p q : Bool) (poly : Word) :
      (if p ^^ q then poly else 0#32) = (if p then poly else 0#32) ^^^ (if q then poly else 0#32) := by
    cases p <;> cases q <;> simp
  simp only [crcBitStep_eq_xor, BitVec.ushiftRight_xor_distrib, BitVec.getLsbD_xor, hpoly]
  ac_rfl

theorem crcBitStep_iterate_xor (k : Nat) (x y : Word) :
    crcBitStep^[k] (x ^^^ y) = crcBitStep^[k] x ^^^ crcBitStep^[k] y := by
  induction k generalizing x y with
  | zero => rfl
  | succ k ih => simp only [Function.iterate_succ_apply, crcBitStep_xor, ih]

/-- While only zeros leave at the low end, the rounds are shifts. -/
theorem crcBitStep_iterate_of_low_zero {k : Nat} {x : Word} (hzero : ∀ i < k, x.getLsbD i = false) :
    crcBitStep^[k] x = x >>> k := by
  induction k with
  | zero => exact (BitVec.ushiftRight_zero x).symm
  | succ k ih =>
    have hlow : (x >>> k).getLsbD 0 = false := by
      rw [BitVec.getLsbD_ushiftRight]
      exact hzero k (Nat.lt_succ_self k)
    rw [Function.iterate_succ_apply', ih (fun i hi => hzero i (by omega)), crcBitStep, hlow, BitVec.shiftRight_add]
    rfl

/-- Eight rounds are one table lookup and one shift. -/
theorem crcBitStep_iterate_eight (x : Word) : crcBitStep^[8] x = crct (x &&& 0xFF#32).toNat ^^^ (x >>> 8) := by
  have hsplit : x = (x &&& 0xFF#32) ^^^ (x ^^^ (x &&& 0xFF#32)) := by
    rw [BitVec.xor_comm x, ← BitVec.xor_assoc, BitVec.xor_self, BitVec.zero_xor]
  have hlow : crcBitStep^[8] (x &&& 0xFF#32) = crct (x &&& 0xFF#32).toNat := by
    have hindex : (x &&& 0xFF#32).toNat < 256 := Nat.lt_succ_of_le Nat.and_le_right
    rw [crct_eq_crcBitStep_iterate _ hindex, BitVec.ofNat_toNat, BitVec.setWidth_eq]
  have hhigh : crcBitStep^[8] (x ^^^ (x &&& 0xFF#32)) = x >>> 8 := by
    have hones : ∀ i < 8, (0xFF#32).getLsbD i = true := by decide
    rw [crcBitStep_iterate_of_low_zero fun i hi => by simp [hones i hi], BitVec.ushiftRight_xor_distrib,
      BitVec.ushiftRight_and_distrib, show 0xFF#32 >>> 8 = 0#32 from rfl, BitVec.and_zero, BitVec.xor_zero]
  conv_lhs => rw [hsplit, crcBitStep_iterate_xor, hlow, hhigh]

theorem byte_setWidth_ushiftRight (b : Byte) : b.setWidth 32 >>> 8 = 0#32 := by
  apply BitVec.eq_of_toNat_eq
  have hb := b.isLt
  simp [Nat.shiftRight_eq_div_pow]
  omega

/-- Settles O13: the byte stands in the low bits, so it enters the table index and leaves the shifted part alone. -/
theorem crcStepDividesByThePolynomial : Obligations.CrcStepDividesByThePolynomial := by
  intro acc b
  rw [crcBitStep_iterate_eight, BitVec.ushiftRight_xor_distrib, byte_setWidth_ushiftRight, BitVec.xor_zero, crcStep]

end Sys2Proof.Machine
end

section
/-! ## Proofs: the range commands (spec/40_crc.md R102 to R105)

CRC_TBUF and CRC_PBUF are one command over two RAMs, told apart by `checkedRange`: the check, then a read of the whole range, then
the step folded over the bytes read. -/

namespace Sys2Proof.Machine

@[simp] theorem setCrcAcc_mem (s : State) (v : Word) (sp : Space) : (s.setCrcAcc v).mem sp = s.mem sp := by
  cases sp <;> rfl

@[simp] theorem holds_setCrcAcc {s : State} {v : Word} {sp : Space} {a : Nat} {p : List Byte} :
    Holds (s.setCrcAcc v) sp a p ↔ Holds s sp a p := by
  simp [Holds]

/-! ### Absorbing is reading, then folding the step -/

theorem memRead_setCrcAcc (sp : Space) (a : Nat) (s : State) (v : Word) : memRead sp a (s.setCrcAcc v) = memRead sp a s := by
  simp [memRead]

theorem readRange_setCrcAcc (sp : Space) (a n : Nat) (s : State) (v : Word) :
    readRange sp a n (s.setCrcAcc v) = readRange sp a n s := by
  induction n generalizing a with
  | zero => rfl
  | succ n ih => simp only [readRange, memRead_setCrcAcc, ih]

theorem absorbRange_eq_readRange (sp : Space) (a n : Nat) (s : State) :
    absorbRange sp a n s = (readRange sp a n s).map (fun p => s.setCrcAcc (p.foldl crcStep s.crcAcc)) := by
  induction n generalizing a s with
  | zero => rfl
  | succ n ih =>
    rw [absorbRange, readRange]
    cases memRead sp a s with
    | error e => rfl
    | ok v =>
      simp only [ih, readRange_setCrcAcc]
      cases readRange sp (a + 1) n s <;> rfl

/-- A range read gives the bytes the range holds. -/
theorem readRange_eq_ok_iff_holds {sp : Space} {a n : Nat} {s : State} {p : List Byte} :
    readRange sp a n s = .ok p ↔ p.length = n ∧ Holds s sp a p := by
  rw [readRange_eq_ok]
  refine and_congr_right fun _ => forall₂_congr fun j hj => ?_
  rw [List.getElem?_eq_getElem hj]

theorem absorbRange_eq_ok_iff {sp : Space} {a n : Nat} {s t : State} :
    absorbRange sp a n s = .ok t ↔ ∃ p, p.length = n ∧ Holds s sp a p ∧ t = s.setCrcAcc (p.foldl crcStep s.crcAcc) := by
  rw [absorbRange_eq_readRange]
  constructor
  · intro h
    cases hread : readRange sp a n s with
    | error e => rw [hread] at h; cases h
    | ok p =>
      rw [hread] at h
      cases h
      obtain ⟨hlen, hp⟩ := readRange_eq_ok_iff_holds.mp hread
      exact ⟨p, hlen, hp, rfl⟩
  · rintro ⟨p, hlen, hp, rfl⟩
    rw [readRange_eq_ok_iff_holds.mpr ⟨hlen, hp⟩]
    rfl

/-! ### What a range command does -/

section
variable {i : Instr} {sp : Space} {a b : Nat} {s t : State}

/-- The body of a range command: RANGE where the range leaves the RAM, else the bytes of the range (R102 to R104). -/
theorem commandBody_of_checkedRange (hi : checkedRange i = some (sp, a, b)) (s : State) :
    commandBody i s = if a + b > sp.size then .error (.raised .range) else absorbRange sp a b s := by
  have hbody (sp : Space) (x y : BitVec 13) : crcRangeBody sp x y s =
      if x.toNat + y.toNat > sp.size then .error (.raised .range) else absorbRange sp x.toNat y.toNat s := by
    unfold crcRangeBody andThen checkRange rangeStart rangeLength
    by_cases h : x.toNat + y.toNat > sp.size <;> simp [h]
  cases i with
  | crcTbuf x y | crcPbuf x y => cases hi; exact hbody _ x y
  | _ => cases hi

theorem exec_of_range_fits (hi : checkedRange i = some (sp, a, b)) (hfits : a + b ≤ sp.size) (s : State) :
    exec i s = complete i s (absorbRange sp a b s) := by
  rw [exec_eq_complete, commandBody_of_checkedRange hi, if_neg (by omega)]

theorem exec_of_range_exceeds (hi : checkedRange i = some (sp, a, b)) (hexceeds : a + b > sp.size) (s : State) :
    exec i s = .next (enterFault .range (encode i) s) := by
  rw [exec_eq_complete, commandBody_of_checkedRange hi, if_pos hexceeds]
  rfl

/-- Inside its RAM a range command completes exactly over defined bytes, and folds the step over them. -/
theorem exec_range_eq_next_iff (hi : checkedRange i = some (sp, a, b)) (hfits : a + b ≤ sp.size) :
    exec i s = .next t ↔ ∃ p, p.length = b ∧ Holds s sp a p ∧ t = s.setCrcAcc (p.foldl crcStep s.crcAcc) := by
  rw [exec_of_range_fits hi hfits, complete_eq_next, ← absorbRange_eq_ok_iff]
  exact or_iff_left fun ⟨c, hraised, _⟩ => absorbRange_ne_raised sp a b s c hraised

theorem Holds.append {p q : List Byte} (hp : Holds s sp a p) (hq : Holds s sp (a + p.length) q) : Holds s sp a (p ++ q) := by
  intro j hj
  rw [List.length_append] at hj
  by_cases hfront : j < p.length
  · rw [List.getElem?_append_left hfront, hp j hfront]
  · rw [List.getElem?_append_right (by omega), ← hq (j - p.length) (by omega)]
    congr 1
    omega

/-- Two range commands over adjacent ranges do what one over the joined range does. -/
theorem exec_ranges_chain {j k : Instr} {n m : Nat} {u : State} (hi : checkedRange i = some (sp, a, n))
    (hj : checkedRange j = some (sp, a + n, m)) (hk : checkedRange k = some (sp, a, n + m)) (hfits : a + n + m ≤ sp.size)
    (hfirst : exec i s = .next t) (hsecond : exec j t = .next u) : exec k s = .next u := by
  obtain ⟨p, rfl, hp, rfl⟩ := (exec_range_eq_next_iff hi (by omega)).mp hfirst
  obtain ⟨q, rfl, hq, rfl⟩ := (exec_range_eq_next_iff hj hfits).mp hsecond
  refine (exec_range_eq_next_iff hk (by omega)).mpr ⟨p ++ q, List.length_append, hp.append (holds_setCrcAcc.mp hq), ?_⟩
  rw [List.foldl_append]
  rfl

theorem toNat_ofNat_of_range_fits {n : Nat} (hn : n ≤ sp.size) : (BitVec.ofNat 13 n).toNat = n := by
  have hsize : sp.size < 2 ^ 13 := by cases sp <;> decide
  rw [BitVec.toNat_ofNat, Nat.mod_eq_of_lt (by omega)]

/-- The operand fields hold every number of a range inside the RAM, so the commands of such ranges chain (R73, R105). -/
theorem exec_rangeCommands_chain {mk : BitVec 13 → BitVec 13 → Instr}
    (hmk : ∀ x y, checkedRange (mk x y) = some (sp, x.toNat, y.toNat)) {n m : Nat} {u : State} (hfits : a + n + m ≤ sp.size)
    (hfirst : exec (mk (BitVec.ofNat 13 a) (BitVec.ofNat 13 n)) s = .next t)
    (hsecond : exec (mk (BitVec.ofNat 13 (a + n)) (BitVec.ofNat 13 m)) t = .next u) :
    exec (mk (BitVec.ofNat 13 a) (BitVec.ofNat 13 (n + m))) s = .next u := by
  have hrange {x y : Nat} (hx : x ≤ sp.size) (hy : y ≤ sp.size) :
      checkedRange (mk (BitVec.ofNat 13 x) (BitVec.ofNat 13 y)) = some (sp, x, y) := by
    rw [hmk, toNat_ofNat_of_range_fits hx, toNat_ofNat_of_range_fits hy]
  exact exec_ranges_chain (hrange (by omega) (by omega)) (hrange (by omega) (by omega)) (hrange (by omega) (by omega)) hfits
    hfirst hsecond

end

/-! ### The statements about range commands -/

/-- Settles O15, both RAMs by the same law of range commands. -/
theorem crcRangeAbsorbsItsBytes : Obligations.CrcRangeAbsorbsItsBytes := fun _ _ _ p hlen =>
  ⟨fun hfits hp => (exec_range_eq_next_iff rfl hfits).mpr ⟨p, hlen, hp, rfl⟩,
    fun hfits hp => (exec_range_eq_next_iff rfl hfits).mpr ⟨p, hlen, hp, rfl⟩⟩

/-- Settles O16: inside the RAM a range command that has a next state wrote CRC_ACC alone. -/
theorem rangeIsCheckedBeforeAnyAccess : Obligations.RangeIsCheckedBeforeAnyAccess := by
  intro i sp a b s hi
  refine ⟨fun hexceeds => exec_of_range_exceeds hi hexceeds s, fun hfits t hnext => ?_⟩
  obtain ⟨p, -, -, rfl⟩ := (exec_range_eq_next_iff hi hfits).mp hnext
  exact ⟨rfl, rfl⟩

/-- Settles O17: the read behind the absorption stops at the first undefined byte. -/
theorem crcRangeStopsAtTheFirstUndefinedByte : Obligations.CrcRangeStopsAtTheFirstUndefinedByte := by
  intro i sp a b k s hi hfits hk hnone hdefined
  have hread : readRange sp a b s = .error (.undefRead sp (a + k)) :=
    readRange_of_first_undefined hk hnone fun j hj => hdefined (a + j) (by omega) (by omega)
  rw [exec_of_range_fits hi hfits, absorbRange_eq_readRange, hread]
  rfl

/-- Settles O18, both RAMs by the same law of chained ranges. -/
theorem crcRangesChain : Obligations.CrcRangesChain := fun _ _ _ _ _ _ hfits =>
  ⟨exec_rangeCommands_chain (mk := .crcTbuf) (fun _ _ => rfl) hfits, exec_rangeCommands_chain (mk := .crcPbuf) (fun _ _ => rfl)⟩

end Sys2Proof.Machine
end

section
/-! ## Proofs: the register commands, and a run of commands the host issues (spec/40_crc.md R100, R101, R105) -/

namespace Sys2Proof.Machine

theorem exec_crcInit (s : State) : exec .crcInit s = .next (s.setCrcAcc crcInitValue) := rfl

theorem exec_crcByte (b : Byte) (s : State) : exec (.crcByte b) s = .next (s.setCrcAcc (crcStep s.crcAcc b)) := rfl

theorem exec_bwSetidx (imm26 : BitVec 26) (s : State) : exec (.bwSetidx imm26) s = .next { s with bidx := zext32 imm26 } := by
  change Host.Outcome.next (s.setBidx (zext32 imm26).toNat) = _
  rw [State.setBidx, BitVec.ofNat_toNat, BitVec.setWidth_eq]

/-- Settles O14, one register update a clause. -/
theorem registerCommandsComplete : Obligations.RegisterCommandsComplete := fun s =>
  ⟨rfl, exec_crcInit s, fun b => exec_crcByte b s, fun i => exec_bwSetidx i s⟩

/-- With no fault recorded, a step on a command the host issues runs that command. -/
theorem step_of_commandAction {s : State} {i : Instr} {rest : List HostAction} (hfree : faultFlag s = false)
    (hpending : s.pending = commandAction i :: rest) : step s = exec i { s with pending := rest } :=
  (step_of_cmd_write hpending).trans (issueCommand_of_decode hfree (decode_encode i))

theorem run_succ_of_step {M : Host.Core} {s t : M.State} (h : M.step s = .next t) (k : Nat) : M.run (k + 1) s = M.run k t := by
  rw [Host.Core.run, h]

/-- One command of a run the host issues. -/
theorem run_commandAction {s t : State} {i : Instr} {rest : List HostAction} (hfree : faultFlag s = false)
    (hpending : s.pending = commandAction i :: rest) (hexec : exec i { s with pending := rest } = .next t) (k : Nat) :
    Sys2Proof.core.run (k + 1) s = Sys2Proof.core.run k t :=
  run_succ_of_step (M := Sys2Proof.core) ((step_of_commandAction hfree hpending).trans hexec) k

/-- One CRC_BYTE for each byte of d absorbs d. -/
theorem run_crcBytes (d : List Byte) {s : State} (hfree : faultFlag s = false)
    (hpending : s.pending = d.map (fun b => commandAction (.crcByte b))) :
    Sys2Proof.core.run d.length s = .next { s with pending := [], crcAcc := d.foldl crcStep s.crcAcc } := by
  induction d generalizing s with
  | nil =>
    cases s
    cases hpending
    rfl
  | cons b d ih => exact (run_commandAction hfree hpending (exec_crcByte b _) d.length).trans (ih hfree rfl)

/-- Settles O19: CRC_INIT sets all ones, and the bytes are absorbed from there. -/
theorem crcBytesComputeThePureFunction : Obligations.CrcBytesComputeThePureFunction := by
  intro s d hfree
  have hinit := run_commandAction (s := { s with pending := commandAction .crcInit :: d.map (fun b => commandAction (.crcByte b)) })
    hfree rfl (exec_crcInit _) d.length
  exact ⟨hinit.trans (run_crcBytes d hfree rfl), rfl⟩

end Sys2Proof.Machine
end

section
/-! ## Proofs: bytes put at the cursor one after another (spec/20_memory.md R55, spec/41_bit_writer.md R122, R123)

Every Bit Writer command and SE_EMIT is a list of bytes put at the cursor. What such a list does to each TBUF bit, to the bytes it
does not touch and to the cursor is said here once. -/

namespace Sys2Proof.Machine

/-! ### A byte is its eight bits -/

theorem bit_msb_first (m : Memory) (a : Nat) {j : Nat} (hj : j < 8) :
    Memory.bit m (8 * a + (7 - j)) = (Memory.read m a).map (·.getLsbD j) := by
  have hbyte : (8 * a + (7 - j)) / 8 = a := by omega
  have hbit : 7 - (8 * a + (7 - j)) % 8 = j := by omega
  rw [Memory.bit, hbyte, hbit]

/-- A byte whose eight bits agree in two RAMs reads the same in both. -/
theorem read_eq_of_bits {m m' : Memory} {a : Nat} (h : ∀ k, k / 8 = a → Memory.bit m k = Memory.bit m' k) :
    Memory.read m a = Memory.read m' a := by
  have hbits (j : Nat) (hj : j < 8) : (Memory.read m a).map (·.getLsbD j) = (Memory.read m' a).map (·.getLsbD j) := by
    rw [← bit_msb_first m a hj, ← bit_msb_first m' a hj]
    exact h _ (by omega)
  cases hm : Memory.read m a with
  | none => simpa [hm, eq_comm] using hbits 0 (by omega)
  | some v =>
    cases hm' : Memory.read m' a with
    | none => simpa [hm, hm'] using hbits 0 (by omega)
    | some v' =>
      refine congrArg some (BitVec.eq_of_getLsbD_eq fun j hj => ?_)
      simpa [hm, hm'] using hbits j hj

/-! ### Putting a list of bytes -/

/-- Puts the bytes at the cursor in order, each where the one before it left the cursor. -/
def putBytes (d : List Byte) (s : State) : State := d.foldl (fun u v => putByte v u) s

@[simp] theorem putBytes_nil (s : State) : putBytes [] s = s := rfl

theorem putBytes_cons (v : Byte) (d : List Byte) (s : State) : putBytes (v :: d) s = putBytes d (putByte v s) := rfl

/-- Only TBUF and BIDX change. -/
theorem putBytes_frame (d : List Byte) (s : State) :
    putBytes d s = { s with tbuf := (putBytes d s).tbuf, bidx := (putBytes d s).bidx } := by
  induction d generalizing s with
  | nil => rfl
  | cons v d ih =>
    rw [putBytes_cons, ih, putByte_eq]
    rfl

section
variable {d : List Byte} {s : State}

theorem putBytes_bidx_toNat (hfits : s.bidx.toNat + 8 * d.length ≤ capBits) :
    (putBytes d s).bidx.toNat = s.bidx.toNat + 8 * d.length := by
  induction d generalizing s with
  | nil => rfl
  | cons v d ih =>
    rw [List.length_cons] at hfits ⊢
    have hbyte := putByte_bidx_toNat (v := v) (s := s) (by omega)
    rw [putBytes_cons, ih (by omega), hbyte]
    omega

/-- The bits before the cursor and after the last byte stay. -/
theorem bit_putBytes_outside (hfits : s.bidx.toNat + 8 * d.length ≤ capBits) {k : Nat}
    (hk : k < s.bidx.toNat ∨ s.bidx.toNat + 8 * d.length ≤ k) :
    Memory.bit (putBytes d s).tbuf k = Memory.bit s.tbuf k := by
  induction d generalizing s with
  | nil => rfl
  | cons v d ih =>
    rw [List.length_cons] at hfits hk
    have hbyte := putByte_bidx_toNat (v := v) (s := s) (by omega)
    rw [putBytes_cons, ih (by omega) (by omega), putByte_tbuf, bit_put8, if_neg (by omega)]

/-- Bit j of byte i is ORed into the TBUF bit that lies i bytes and 7 - j bits after the cursor (R55, R122). -/
theorem bit_putBytes_inside (hfits : s.bidx.toNat + 8 * d.length ≤ capBits) {i j k : Nat} (hi : i < d.length) (hj : j < 8)
    (hk : k + j = s.bidx.toNat + 8 * i + 7) :
    Memory.bit (putBytes d s).tbuf k = (Memory.bit s.tbuf k).map (· || d[i].getLsbD j) := by
  induction d generalizing s i with
  | nil => cases hi
  | cons v d ih =>
    rw [List.length_cons] at hfits hi
    have hbyte := putByte_bidx_toNat (v := v) (s := s) (by omega)
    rw [putBytes_cons]
    cases i with
    | zero =>
      have hlsb : 7 - (k - s.bidx.toNat) = j := by omega
      rw [bit_putBytes_outside (by omega) (by omega), putByte_tbuf, bit_put8, if_pos (by omega), hlsb, List.getElem_cons_zero]
    | succ i =>
      rw [ih (by omega) (i := i) (by omega) (by omega), putByte_tbuf, bit_put8, if_neg (by omega), List.getElem_cons_succ]

/-- A TBUF byte none of whose bits is written reads as before. -/
theorem read_putBytes_outside (hfits : s.bidx.toNat + 8 * d.length ≤ capBits) {a : Nat}
    (ha : 8 * a + 8 ≤ s.bidx.toNat ∨ s.bidx.toNat + 8 * d.length ≤ 8 * a) :
    Memory.read (putBytes d s).tbuf a = Memory.read s.tbuf a :=
  read_eq_of_bits fun _ _ => bit_putBytes_outside hfits (by omega)

/-- On zeroed bits the bytes put are the bytes left. -/
theorem bytesAt_putBytes (hfits : s.bidx.toNat + 8 * d.length ≤ capBits)
    (hzero : ∀ k, s.bidx.toNat ≤ k → k < s.bidx.toNat + 8 * d.length → Memory.bit s.tbuf k = some false) :
    BytesAt (putBytes d s).tbuf s.bidx.toNat d := by
  intro i hi j hj
  rw [bit_putBytes_inside hfits hi (j := 7 - j) (by omega) (by omega), hzero _ (by omega) (by omega)]
  simp

end

/-! ### SE_EMIT puts the bytes it reads (spec/42_sector_encoder.md R148) -/

@[simp] theorem putByte_ebuf (v : Byte) (s : State) : (putByte v s).ebuf = s.ebuf := by
  rw [putByte_eq]
  rfl

theorem readRange_ebuf_putByte (a n : Nat) (v : Byte) (s : State) :
    readRange .ebuf a n (putByte v s) = readRange .ebuf a n s := by
  induction n generalizing a with
  | zero => rfl
  | succ n ih => simp only [readRange, memRead, mem_ebuf, putByte_ebuf, ih]

theorem emitLoop_eq_readRange (i n : Nat) (s : State) :
    emitLoop i n s = (readRange .ebuf i n s).map (fun d => putBytes d s) := by
  induction n generalizing i s with
  | zero => rfl
  | succ n ih =>
    rw [emitLoop, readRange]
    cases memRead .ebuf i s with
    | error e => rfl
    | ok v =>
      simp only [ih, readRange_ebuf_putByte]
      cases readRange .ebuf (i + 1) n s <;> rfl

theorem emitLoop_eq_ok_iff {i n : Nat} {s t : State} :
    emitLoop i n s = .ok t ↔ ∃ d, d.length = n ∧ Holds s .ebuf i d ∧ t = putBytes d s := by
  rw [emitLoop_eq_readRange]
  constructor
  · intro h
    cases hread : readRange .ebuf i n s with
    | error e => rw [hread] at h; cases h
    | ok d =>
      rw [hread] at h
      cases h
      obtain ⟨hlen, hd⟩ := readRange_eq_ok_iff_holds.mp hread
      exact ⟨d, hlen, hd, rfl⟩
  · rintro ⟨d, hlen, hd, rfl⟩
    rw [readRange_eq_ok_iff_holds.mpr ⟨hlen, hd⟩]
    rfl

theorem emitBody_advances : Advances 2744 emitBody := by
  intro s hfits
  refine ⟨fun t h => ?_, fun c h => ?_⟩
  · obtain ⟨s', hcheck, hloop⟩ := andThen_eq_ok.mp h
    obtain ⟨-, rfl⟩ := checkCapacity_eq_ok.mp hcheck
    obtain ⟨d, hlen, -, rfl⟩ := emitLoop_eq_ok_iff.mp hloop
    rw [ebufBytes] at hlen
    rw [putBytes_bidx_toNat (by omega), hlen]
  · obtain hcheck | ⟨s', -, hloop⟩ := andThen_eq_error.mp h
    · obtain ⟨hexceeds, -⟩ := checkCapacity_eq_error.mp hcheck
      rw [ebufBytes] at hexceeds
      omega
    · exact emitLoop_ne_raised _ _ _ _ hloop

/-! ### The capacity check (R121, R203) -/

section
variable {i : Instr} {n : Nat}

/-- A command that checks n bits runs that check before anything else. -/
theorem commandBody_of_capacityBits (hi : capacityBits i = some n) :
    ∃ act, commandBody i = andThen (checkCapacity n) act := by
  have hemit : ebufBytes * 8 = 2744 := by rw [ebufBytes]
  cases i with
  | bwByte | bw4and4 | bwSync => cases hi; exact ⟨_, rfl⟩
  | seEmit => cases hi; exact ⟨emitLoop 0 ebufBytes, by rw [← hemit]; rfl⟩
  | _ => cases hi

/-- A command that checks n bits advances the cursor by n where it finishes. -/
theorem commandBody_advances (hi : capacityBits i = some n) : Advances n (commandBody i) := by
  cases i with
  | bwByte v => cases hi; exact byteBody_advances v
  | bw4and4 v => cases hi; exact w44Body_advances v
  | bwSync => cases hi; exact syncBody_advances
  | seEmit => cases hi; exact emitBody_advances
  | _ => cases hi

theorem exec_of_capacity_exceeded (hi : capacityBits i = some n) {s : State} (hexceeds : s.bidx.toNat + n > capBits) :
    exec i s = .next (enterFault .capacity (encode i) s) := by
  obtain ⟨act, hbody⟩ := commandBody_of_capacityBits hi
  refine exec_eq_next.mpr (.inr ⟨.capacity, ?_, rfl⟩)
  rw [hbody]
  exact andThen_eq_error.mpr (.inl (checkCapacity_eq_error.mpr ⟨hexceeds, rfl⟩))

/-- Where n bits fit, a command that checks them and has a next state finished its body. -/
theorem commandBody_eq_ok_of_capacity_fits (hi : capacityBits i = some n) {s t : State} (hfits : s.bidx.toNat + n ≤ capBits)
    (h : exec i s = .next t) : commandBody i s = .ok t := by
  obtain hbody | ⟨c, hraised, -⟩ := exec_eq_next.mp h
  · exact hbody
  · exact absurd hraised ((commandBody_advances hi s hfits).2 c)

end

/-- Settles O20: the check comes first in each body, and past it a body only moves the cursor and writes TBUF. -/
theorem capacityIsCheckedBeforeAnyWrite : Obligations.CapacityIsCheckedBeforeAnyWrite := by
  intro i n s hi
  refine ⟨fun hexceeds => exec_of_capacity_exceeded hi hexceeds, fun hfits t hnext => ?_⟩
  have hbody := commandBody_eq_ok_of_capacity_fits hi hfits hnext
  have hwrites := commandBody_writesOnlyNamed hbody
  exact ⟨hwrites.status, hwrites.faultcmd, (commandBody_advances hi s hfits).1 t hbody⟩

end Sys2Proof.Machine
end

section
/-! ## Proofs: the Bit Writer commands as bytes put at the cursor (spec/41_bit_writer.md R122 to R127) -/

namespace Sys2Proof.Machine

/-! ### What each command does where it fits -/

theorem exec_bwByte_of_fits {v : Byte} {s : State} (hfits : s.bidx.toNat + 8 ≤ capBits) :
    exec (.bwByte v) s = .next (putByte v s) :=
  exec_eq_next.mpr (.inl ((byteBody_eq v s).trans (if_neg (by omega))))

theorem exec_bw4and4_of_fits {v : Byte} {s : State} (hfits : s.bidx.toNat + 16 ≤ capBits) :
    exec (.bw4and4 v) s = .next (putBytes [fourAndFourOdd v, fourAndFourEven v] s) :=
  exec_eq_next.mpr (.inl ((w44Body_eq v s).trans (if_neg (by omega))))

theorem exec_bwSync_of_fits {s : State} (hfits : s.bidx.toNat + 10 ≤ capBits) :
    exec .bwSync s = .next (advance syncSlackBits (putBytes [syncByte] s)) :=
  exec_eq_next.mpr (.inl ((syncBody_eq s).trans (if_neg (by omega))))

/-- Settles O21: one byte put at the cursor. -/
theorem bwByteWritesEightBits : Obligations.BwByteWritesEightBits := by
  intro s v hfits
  have hput : s.bidx.toNat + 8 * [v].length ≤ capBits := hfits
  refine ⟨putBytes [v] s, exec_bwByte_of_fits hfits, putBytes_frame [v] s, putBytes_bidx_toNat hput, fun j hj => ?_,
    fun k hk => bit_putBytes_outside hput hk, fun a hbyte hnext => ?_⟩
  · exact bit_putBytes_inside hput (i := 0) Nat.one_pos hj (by omega)
  · exact read_putBytes_outside hput (by rw [List.length_singleton]; omega)

/-- Settles O22: the two bytes of the 4-and-4 form put at the cursor. -/
theorem bw4and4WritesSixteenBits : Obligations.Bw4and4WritesSixteenBits := by
  intro s v hfits
  have hput : s.bidx.toNat + 8 * [fourAndFourOdd v, fourAndFourEven v].length ≤ capBits := hfits
  refine ⟨putBytes [fourAndFourOdd v, fourAndFourEven v] s, exec_bw4and4_of_fits hfits, putBytes_frame _ s,
    putBytes_bidx_toNat hput, fun j hj => ?_, fun j hj => ?_, fun k hk => bit_putBytes_outside hput hk, fun a ha => ?_⟩
  · exact bit_putBytes_inside hput (i := 0) Nat.two_pos hj (by omega)
  · exact bit_putBytes_inside hput (i := 1) Nat.one_lt_two hj (by omega)
  · exact read_putBytes_outside hput (by simp only [List.length_cons, List.length_nil]; omega)

theorem syncByte_getLsbD {j : Nat} (hj : j < 8) : syncByte.getLsbD j = true := by
  have hall : ∀ j < 8, syncByte.getLsbD j = true := by decide
  exact hall j hj

/-- Settles O23: the byte 0xFF put at the cursor, and the cursor moved over the two slack bits after it. -/
theorem bwSyncWritesASyncWord : Obligations.BwSyncWritesASyncWord := by
  intro s hfits
  have hput : s.bidx.toNat + 8 * [syncByte].length ≤ capBits := by
    rw [List.length_singleton, capBits]
    omega
  have hcursor : (putBytes [syncByte] s).bidx.toNat = s.bidx.toNat + 8 := putBytes_bidx_toNat hput
  have hslack : ∀ k, k < s.bidx.toNat ∨ s.bidx.toNat + 8 ≤ k →
      Memory.bit (putBytes [syncByte] s).tbuf k = Memory.bit s.tbuf k := fun k hk => bit_putBytes_outside hput hk
  refine ⟨advance syncSlackBits (putBytes [syncByte] s), exec_bwSync_of_fits hfits, ?_, ?_, fun k hlo hhi => ?_, hslack,
    fun a ha => ?_, fun hzero i hi => ?_⟩
  · rw [putBytes_frame]
    rfl
  · rw [advance_bidx_toNat (by rw [hcursor, syncSlackBits]; exact hfits), hcursor, syncSlackBits]
  · refine (bit_putBytes_inside hput (i := 0) (j := s.bidx.toNat + 7 - k) Nat.one_pos (by omega) (by omega)).trans ?_
    simp only [List.getElem_cons_zero, syncByte_getLsbD (j := s.bidx.toNat + 7 - k) (by omega), Bool.or_true]
  · exact read_putBytes_outside hput (by rw [List.length_singleton]; omega)
  · obtain rfl : i = 0 := by omega
    refine ⟨bytesAt_putBytes hput fun k hlo hhi => hzero k hlo ?_, ?_, ?_⟩
    · rw [List.length_singleton] at hhi
      omega
    · exact (hslack _ (by omega)).trans (hzero _ (by omega) (by omega))
    · exact (hslack _ (by omega)).trans (hzero _ (by omega) (by omega))

/-! ### The 4-and-4 form (R124, R125) -/

/-- The mask 0xAA holds the odd bit positions. -/
theorem fourAndFourMask_getLsbD {n : Nat} (hn : n < 4) :
    (0xAA#8).getLsbD (2 * n) = false ∧ (0xAA#8).getLsbD (2 * n + 1) = true := by
  have hall : ∀ n < 4, (0xAA#8).getLsbD (2 * n) = false ∧ (0xAA#8).getLsbD (2 * n + 1) = true := by decide
  exact hall n hn

theorem fourAndFourOdd_getLsbD (v : Byte) {n : Nat} (hn : n < 4) :
    (fourAndFourOdd v).getLsbD (2 * n) = v.getLsbD (2 * n + 1) ∧ (fourAndFourOdd v).getLsbD (2 * n + 1) = true := by
  obtain ⟨heven, hodd⟩ := fourAndFourMask_getLsbD hn
  rw [fourAndFourOdd]
  simp only [BitVec.getLsbD_or, BitVec.getLsbD_ushiftRight, heven, hodd, Bool.or_false, Bool.or_true, Nat.add_comm 1, and_self]

theorem fourAndFourEven_getLsbD (v : Byte) {n : Nat} (hn : n < 4) :
    (fourAndFourEven v).getLsbD (2 * n) = v.getLsbD (2 * n) ∧ (fourAndFourEven v).getLsbD (2 * n + 1) = true := by
  obtain ⟨heven, hodd⟩ := fourAndFourMask_getLsbD hn
  rw [fourAndFourEven]
  simp only [BitVec.getLsbD_or, heven, hodd, Bool.or_false, Bool.or_true, and_self]

theorem getLsbD_shiftLeft_one_or_one (x : Byte) {j : Nat} (hj : j < 8) :
    ((x <<< 1) ||| 1#8).getLsbD j = (j == 0 || x.getLsbD (j - 1)) := by
  cases j with
  | zero => simp
  | succ n => simp [hj, -BitVec.getLsbD_eq_getElem]

/-- The decoder's formula: the shifted first byte gives the odd bits and lets the even ones of the second through. -/
theorem fourAndFour_recovers (v : Byte) : ((fourAndFourOdd v <<< 1) ||| 1#8) &&& fourAndFourEven v = v := by
  refine BitVec.eq_of_getLsbD_eq fun j hj => ?_
  rw [BitVec.getLsbD_and, getLsbD_shiftLeft_one_or_one _ hj]
  obtain ⟨n, rfl | rfl⟩ := Nat.even_or_odd' j
  · obtain ⟨heven, -⟩ := fourAndFourEven_getLsbD v (n := n) (by omega)
    rw [heven]
    cases n with
    | zero => rfl
    | succ n =>
      obtain ⟨-, hodd⟩ := fourAndFourOdd_getLsbD v (n := n) (by omega)
      have hbelow : 2 * (n + 1) - 1 = 2 * n + 1 := by omega
      rw [hbelow, hodd, Bool.or_true, Bool.true_and]
  · obtain ⟨heven, -⟩ := fourAndFourOdd_getLsbD v (n := n) (by omega)
    obtain ⟨-, hodd⟩ := fourAndFourEven_getLsbD v (n := n) (by omega)
    rw [Nat.add_sub_cancel, heven, hodd, Bool.and_true]
    rfl

/-- Settles O24: bit by bit, and the two bytes as they are put on zeroed bits. -/
theorem fourAndFourFormIsRecovered : Obligations.FourAndFourFormIsRecovered := by
  intro v
  refine ⟨fun n hn => ?_, fourAndFour_recovers v, fun s hfits hzero => ?_⟩
  · obtain ⟨hoddByte, hoddMark⟩ := fourAndFourOdd_getLsbD v hn
    obtain ⟨hevenByte, hevenMark⟩ := fourAndFourEven_getLsbD v hn
    exact ⟨hoddByte, hevenByte, hoddMark, hevenMark⟩
  · exact ⟨_, exec_bw4and4_of_fits hfits, bytesAt_putBytes hfits hzero⟩

/-! ### BW_BYTE commands one after another (R123) -/

theorem putByte_setPending (v : Byte) (s : State) (rest : List HostAction) :
    putByte v { s with pending := rest } = { putByte v s with pending := rest } := by
  unfold putByte put8
  dsimp only
  split <;> rfl

@[simp] theorem putByte_faultFlag (v : Byte) (s : State) : faultFlag (putByte v s) = faultFlag s := by
  rw [putByte_eq]
  rfl

/-- One BW_BYTE for each byte of d puts d at the cursor. -/
theorem run_bwBytes (d : List Byte) {s : State} (hfree : faultFlag s = false) (hfits : s.bidx.toNat + 8 * d.length ≤ capBits) :
    Sys2Proof.core.run d.length { s with pending := d.map (fun v => commandAction (.bwByte v)) } =
      .next { putBytes d s with pending := [] } := by
  induction d generalizing s with
  | nil => rfl
  | cons v d ih =>
    rw [List.length_cons] at hfits
    have hbyte := putByte_bidx_toNat (v := v) (s := s) (by omega)
    have hexec (rest : List HostAction) :
        exec (.bwByte v) { s with pending := rest } = .next { putByte v s with pending := rest } := by
      rw [← putByte_setPending]
      exact exec_bwByte_of_fits (by dsimp only; omega)
    have hfirst := run_commandAction (s := { s with pending := (v :: d).map (fun v => commandAction (.bwByte v)) }) hfree rfl
      (hexec _) d.length
    exact hfirst.trans (ih (by rw [putByte_faultFlag, hfree]) (by omega))

/-- A byte of a RAM that reads 0 has no bit set. -/
theorem bit_eq_false_of_read_zero {m : Memory} {k : Nat} (h : Memory.read m (k / 8) = some 0#8) :
    Memory.bit m k = some false := by
  simp [Memory.bit, h]

/-- Settles O26: the run puts the bytes of d, and a cursor inside the capacity is inside TBUF. -/
theorem successiveBytesAdvanceByEight : Obligations.SuccessiveBytesAdvanceByEight := by
  intro s d hfree hfits
  refine ⟨_, run_bwBytes d hfree hfits, putBytes_bidx_toNat hfits, ?_, fun hzero => ?_⟩
  · rw [putBytes_frame]
  · exact bytesAt_putBytes hfits fun k _ hk => bit_eq_false_of_read_zero (hzero (k / 8) (by omega))

end Sys2Proof.Machine
end

section
/-! ## Proofs: BW_CLEAR is its loop of stores (spec/41_bit_writer.md R128, spec/20_memory.md R50, R53) -/

namespace Sys2Proof.Machine

/-! ### A RAM in canonical form is what it reads -/

theorem wfFrom_cons_iff {lo size k : Nat} {v : Byte} {rest : Memory} :
    Memory.wfFrom lo size ((k, v) :: rest) = true ↔ lo ≤ k ∧ k < size ∧ Memory.wfFrom (k + 1) size rest = true := by
  simp [Memory.wfFrom, and_assoc]

theorem read_head_ne_none (k : Nat) (v : Byte) (rest : Memory) : Memory.read ((k, v) :: rest) k ≠ none := by
  simp [read_cons]

/-- Every defined address of a RAM in canonical form lies in its bounds (R50). -/
theorem bounds_of_read_ne_none {lo size : Nat} {m : Memory} (hm : Memory.wfFrom lo size m = true) {a : Nat}
    (ha : Memory.read m a ≠ none) : lo ≤ a ∧ a < size := by
  induction m generalizing lo with
  | nil => exact absurd rfl ha
  | cons c rest ih =>
    obtain ⟨k, v⟩ := c
    obtain ⟨hlo, hsize, hrest⟩ := wfFrom_cons_iff.mp hm
    by_cases hk : k = a
    · omega
    · rw [read_cons, if_neg hk] at ha
      have hbounds := ih hrest ha
      omega

theorem read_eq_none_of_not_bounds {lo size : Nat} {m : Memory} (hm : Memory.wfFrom lo size m = true) {a : Nat}
    (ha : ¬(lo ≤ a ∧ a < size)) : Memory.read m a = none := by
  by_contra hsome
  exact ha (bounds_of_read_ne_none hm hsome)

/-- Two canonical RAMs that read the same everywhere are one list of cells: their lowest cells agree, and so do the rests. -/
theorem eq_of_wfFrom_of_read_eq {lo lo' size : Nat} {m m' : Memory} (hm : Memory.wfFrom lo size m = true)
    (hm' : Memory.wfFrom lo' size m' = true) (hread : ∀ a, Memory.read m a = Memory.read m' a) : m = m' := by
  induction m generalizing lo lo' m' with
  | nil =>
    cases m' with
    | nil => rfl
    | cons c' rest' =>
      obtain ⟨k', v'⟩ := c'
      simpa [read_cons] using hread k'
  | cons c rest ih =>
    obtain ⟨k, v⟩ := c
    cases m' with
    | nil => simpa [read_cons] using hread k
    | cons c' rest' =>
      obtain ⟨k', v'⟩ := c'
      obtain ⟨-, hk, hrest⟩ := wfFrom_cons_iff.mp hm
      obtain ⟨-, hk', hrest'⟩ := wfFrom_cons_iff.mp hm'
      have hle : k ≤ k' ∧ k' < size :=
        bounds_of_read_ne_none (wfFrom_cons_iff.mpr ⟨le_rfl, hk, hrest⟩) (hread k' ▸ read_head_ne_none k' v' rest')
      have hge : k' ≤ k ∧ k < size :=
        bounds_of_read_ne_none (wfFrom_cons_iff.mpr ⟨le_rfl, hk', hrest'⟩) (hread k ▸ read_head_ne_none k v rest)
      obtain rfl : k = k' := by omega
      obtain rfl : v = v' := by simpa [read_cons] using hread k
      refine congrArg _ (ih hrest hrest' fun a => ?_)
      by_cases ha : k = a
      · rw [read_eq_none_of_not_bounds hrest (by omega), read_eq_none_of_not_bounds hrest' (by omega)]
      · simpa [read_cons, ha] using hread a

/-! ### The loop of stores -/

/-- A loop that stores v at n addresses in rising order writes a list of n copies of v. -/
theorem foldl_memWrite_range' (sp : Space) (v : Byte) (a n : Nat) (s : State) :
    (List.range' a n).foldl (fun u b => memWrite sp b v u) s = writeRange sp a (List.replicate n v) s := by
  induction n generalizing a s with
  | zero => rfl
  | succ n ih => exact ih (a + 1) (memWrite sp a v s)

/-- Over a RAM in canonical form, storing v at each of its addresses fills it. -/
theorem writeRange_replicate_eq_filled {sp : Space} {n : Nat} {s : State} (hm : Memory.wf n (s.mem sp) = true) (v : Byte) :
    writeRange sp 0 (List.replicate n v) s = s.setMem sp (Memory.filled n v) := by
  have hwf : Memory.wf n ((writeRange sp 0 (List.replicate n v) s).mem sp) = true :=
    wf_writeRange sp 0 _ s (by simp) hm
  rw [writeRange_eq_setMem]
  refine congrArg (s.setMem sp) (eq_of_wfFrom_of_read_eq hwf (wf_filled n v) fun a => ?_)
  rw [read_writeRange, read_filled]
  by_cases ha : a < n
  · simp [ha]
  · simp [ha, read_eq_none_of_not_bounds hm (a := a) (by omega)]

theorem setMem_tbuf_frame (s : State) (m : Memory) : s.setMem .tbuf m = { s with tbuf := (s.setMem .tbuf m).tbuf } := rfl

/-- Settles O25: the fill itself, and the loop whose stores leave the same canonical RAM. -/
theorem bwClearStoresZeroEverywhere : Obligations.BwClearStoresZeroEverywhere := by
  intro s
  refine ⟨⟨clearTbuf s, rfl, setMem_tbuf_frame s _, read_clearTbuf s⟩, fun hm => ?_⟩
  rw [List.range_eq_range', foldl_memWrite_range', writeRange_replicate_eq_filled hm]
  rfl

end Sys2Proof.Machine
end

section
/-! ## Proofs: the values of the Sector Content Encoder before translation (spec/42_sector_encoder.md R141 to R145)

What the array holds at each index before chaining, what a sweep leaves at each index, and that payload, values and disk bytes can
each be recovered from the next. -/

namespace Sys2Proof.Machine

/-! ### The low-bits and high-bits values (R141, R142) -/

/-- The reversal swaps the two bits and sets no other (spec/00_scope.md R13). -/
theorem rev2_getLsbD (v : BitVec 2) (j : Nat) : (rev2 v).getLsbD j = (decide (j < 2) && v.getLsbD (1 - j)) := by
  have hbyte : ∀ v : BitVec 2, ∀ j < 8, (rev2 v).getLsbD j = (decide (j < 2) && v.getLsbD (1 - j)) := by decide
  by_cases hj : j < 8
  · exact hbyte v j hj
  · rw [BitVec.getLsbD_of_ge _ _ (by omega), decide_eq_false (by omega), Bool.false_and]

theorem lowRev_getLsbD (p : List Byte) (c j : Nat) :
    (lowRev p c).getLsbD j = (decide (j < 2) && (p.getD c 0#8).getLsbD (1 - j)) := by
  have hlow : 1 - j < 2 := by omega
  rw [lowRev, rev2_getLsbD, BitVec.getLsbD_setWidth, decide_eq_true hlow, Bool.true_and]

/-- Past the payload there are no low bits. -/
theorem lowRev_of_length_le {p : List Byte} {c : Nat} (hc : p.length ≤ c) : lowRev p c = 0#8 := by
  rw [lowRev, List.getD_eq_default _ _ hc]
  rfl

section
variable {p : List Byte}

/-- The values 84 and 85 follow the rule of the others: their third source index is past the payload (R141). -/
theorem getD_lowBits (hp : p.length = 256) {c : Nat} (hc : c < 86) :
    (lowBits p).getD c 0#8 = lowRev p c ||| (lowRev p (c + 86) <<< 2) ||| (lowRev p (c + 172) <<< 4) := by
  by_cases hthree : c < 84
  · rw [lowBits, List.getD_append _ _ _ _ (by simpa using hthree), List.getD_eq_getElem _ _ (by simpa using hthree)]
    simp
  · rw [lowBits, List.getD_append_right _ _ _ _ (by simpa using hthree), lowRev_of_length_le (c := c + 172) (by omega)]
    obtain rfl | rfl : c = 84 ∨ c = 85 := by omega
    · simp
    · simp

theorem getD_unchained_low (p : List Byte) {c : Nat} (hc : c < 86) : (unchained p).getD c 0#8 = (lowBits p).getD c 0#8 := by
  rw [unchained, List.getD_append _ _ _ _ (by simpa using hc)]

theorem getD_unchained_high (p : List Byte) {c : Nat} (hc : c < 256) : (unchained p).getD (86 + c) 0#8 = p.getD c 0#8 >>> 2 := by
  rw [unchained, List.getD_append_right _ _ _ _ (by simp), lowBits_length, Nat.add_sub_cancel_left, highBits,
    List.getD_eq_getElem _ _ (by simpa using hc)]
  simp

/-- Bits 2g and 2g + 1 of low-bits value c are the swapped low two bits of payload byte c + 86 · g (R141). -/
theorem getLsbD_unchained_low (hp : p.length = 256) {c j : Nat} (hc : c < 86) (hj : j < 8) :
    ((unchained p).getD c 0#8).getLsbD j = (decide (j < 6) && (p.getD (c + 86 * (j / 2)) 0#8).getLsbD (1 - j % 2)) := by
  rw [getD_unchained_low p hc, getD_lowBits hp hc]
  simp only [BitVec.getLsbD_or, BitVec.getLsbD_shiftLeft, lowRev_getLsbD]
  interval_cases j <;> simp

@[simp] theorem unchained_length (p : List Byte) : (unchained p).length = 342 := by simp [unchained]

/-- Every payload bit stands in one place of the unchained values: R141 for the low two bits, R142 for the high six. -/
theorem payload_getLsbD (hp : p.length = 256) {c j : Nat} (hc : c < 256) (hj : j < 8) :
    (p.getD c 0#8).getLsbD j =
      if j < 2 then ((unchained p).getD (c % 86) 0#8).getLsbD (2 * (c / 86) + (1 - j))
      else ((unchained p).getD (86 + c) 0#8).getLsbD (j - 2) := by
  split
  · next hlow =>
    have hcolumn : (2 * (c / 86) + (1 - j)) / 2 = c / 86 := by omega
    have hbit : 1 - (2 * (c / 86) + (1 - j)) % 2 = j := by omega
    rw [getLsbD_unchained_low hp (by omega) (by omega), hcolumn, hbit, Nat.mod_add_div, decide_eq_true (by omega), Bool.true_and]
  · next hhigh =>
    rw [getD_unchained_high p hc, BitVec.getLsbD_ushiftRight]
    congr 1
    omega

end

/-- Settles O28: bit j of each low-bits value, and the high-bits values as shifts. -/
theorem unchainedValuesOfAPayload : Obligations.UnchainedValuesOfAPayload := by
  intro p hp
  refine ⟨unchained_length p, fun c hc => ?_, fun c hc => getD_unchained_high p hc⟩
  have hbit (j : Nat) (hj : j < 8) := getLsbD_unchained_low hp hc hj
  have hthird (k : Nat) : (p.getD (c + 172) 0#8).getLsbD k = (decide (c < 84) && (p.getD (c + 172) 0#8).getLsbD k) := by
    by_cases hthree : c < 84
    · simp [hthree]
    · rw [List.getD_eq_default _ _ (by omega)]
      simp
  exact ⟨hbit 0 (by omega), hbit 1 (by omega), hbit 2 (by omega), hbit 3 (by omega), (hbit 4 (by omega)).trans (hthird 1),
    (hbit 5 (by omega)).trans (hthird 0), hbit 6 (by omega), hbit 7 (by omega)⟩

/-! ### The chained values (R143) -/

/-- A downward sweep XORs each value of its range with the value that stood before it: no step has yet changed that one. -/
theorem getD_sweepDown {lo n : Nat} {out6 : List Byte} (hfits : lo + n ≤ out6.length) (i : Nat) :
    (sweepDown lo n out6).getD i 0#8 =
      if lo ≤ i ∧ i < lo + n then out6.getD i 0#8 ^^^ out6.getD (i - 1) 0#8 else out6.getD i 0#8 := by
  induction n generalizing out6 with
  | zero => rw [sweepDown, if_neg (by omega)]
  | succ n ih =>
    have hset (v : Byte) (k : Nat) : (out6.set (lo + n) v).getD k 0#8 = if k = lo + n then v else out6.getD k 0#8 := by
      by_cases hk : lo + n = k
      · subst hk
        rw [if_pos rfl, List.getD_eq_getElem _ _ (by rw [List.length_set]; omega), List.getElem_set_self]
      · rw [if_neg (Ne.symm hk), List.getD_eq_getElem?_getD, List.getElem?_set_ne hk, List.getD_eq_getElem?_getD]
    rw [sweepDown, ih (by rw [List.length_set]; omega), hset, hset]
    by_cases hlast : i = lo + n
    · subst hlast
      rw [if_neg (by omega), if_pos rfl, if_pos (by omega)]
    · rw [if_neg hlast]
      by_cases hin : lo ≤ i ∧ i < lo + n
      · rw [if_pos hin, if_neg (by omega), if_pos (by omega)]
      · rw [if_neg hin, if_neg (by omega)]

/-- The lowest index that the sweep of a CHAIN_MODE changes (R143). -/
def sweepStart : ChainMode → Nat
  | .doc => 2
  | .ref => 1

theorem sweepStart_bounds (mode : ChainMode) : 1 ≤ sweepStart mode ∧ sweepStart mode ≤ 2 := by cases mode <;> decide

theorem chain_eq_sweepDown (mode : ChainMode) (q : List Byte) :
    chain mode q = sweepDown (sweepStart mode) 341 (q ++ [q.getD 341 0#8]) := by
  cases mode <;> rfl

section
variable {q : List Byte}

theorem getD_chain_of_lt (mode : ChainMode) (hq : q.length = 342) {i : Nat} (hi : i < 342) :
    (chain mode q).getD i 0#8 = if sweepStart mode ≤ i then q.getD i 0#8 ^^^ q.getD (i - 1) 0#8 else q.getD i 0#8 := by
  obtain ⟨hlo, hhi⟩ := sweepStart_bounds mode
  rw [chain_eq_sweepDown, getD_sweepDown (by rw [List.length_append, hq, List.length_singleton]; omega),
    List.getD_append _ _ _ _ (by omega), List.getD_append _ _ _ _ (by omega)]
  exact if_congr (by omega) rfl rfl

theorem getD_chain_last (mode : ChainMode) (hq : q.length = 342) :
    (chain mode q).getD 342 0#8 = match mode with | .doc => 0#8 | .ref => q.getD 341 0#8 := by
  have hlast : (q ++ [q.getD 341 0#8]).getD 342 0#8 = q.getD 341 0#8 := by
    rw [List.getD_append_right _ _ _ _ (by omega), hq]
    rfl
  rw [chain_eq_sweepDown, getD_sweepDown (by rw [List.length_append, hq, List.length_singleton]; cases mode <;> decide), hlast]
  cases mode with
  | doc =>
    rw [if_pos (by decide), List.getD_append _ _ _ _ (by omega)]
    exact BitVec.xor_self
  | ref => exact if_neg (by decide)

end

/-- Settles O29: the closed form of the sweep, read at each row of the rule's table. -/
theorem chainHasItsClosedForm : Obligations.ChainHasItsClosedForm := by
  intro mode q hq
  obtain ⟨hone, htwo⟩ := sweepStart_bounds mode
  refine ⟨by rw [chain_length, hq], ?_, ?_, fun i hlo hhi => ?_, getD_chain_last mode hq⟩
  · rw [getD_chain_of_lt mode hq (by omega), if_neg (by omega)]
  · rw [getD_chain_of_lt mode hq (by omega)]
    cases mode <;> rfl
  · rw [getD_chain_of_lt mode hq (by omega), if_pos (by omega)]

theorem chain_unchained_sixBits (mode : ChainMode) (p : List Byte) : SixBits (chain mode (unchained p)) :=
  chain_sixBits mode ((lowBits_sixBits p).append (highBits_sixBits p))

/-- Settles O30: each step of the encoding keeps values inside six bits. -/
theorem encodedValuesAreSixBits : Obligations.EncodedValuesAreSixBits := fun mode p _ v hv =>
  Nat.le_of_lt_succ (chain_unchained_sixBits mode p v hv)

/-! ### The encoding loses nothing (R141 to R144) -/

/-- Lists of one length that read the same at each index are one list. -/
theorem eq_of_getD_eq {xs ys : List Byte} (hlen : xs.length = ys.length)
    (h : ∀ i < xs.length, xs.getD i 0#8 = ys.getD i 0#8) : xs = ys := by
  refine List.ext_getElem hlen fun i hx hy => ?_
  rw [← List.getD_eq_getElem xs 0#8 hx, ← List.getD_eq_getElem ys 0#8 hy]
  exact h i hx

/-- Distinct payloads differ in a value before chaining. -/
theorem unchained_injective {p p' : List Byte} (hp : p.length = 256) (hp' : p'.length = 256) (h : unchained p = unchained p') :
    p = p' := by
  refine eq_of_getD_eq (hp.trans hp'.symm) fun c hc => BitVec.eq_of_getLsbD_eq fun j hj => ?_
  rw [payload_getLsbD hp (hp ▸ hc) hj, payload_getLsbD hp' (hp ▸ hc) hj, h]

/-- A value before chaining is recovered from the chained value and the value before it. -/
theorem getD_of_chain (mode : ChainMode) {q : List Byte} (hq : q.length = 342) {i : Nat} (hi : i < 342) :
    q.getD i 0#8 =
      if sweepStart mode ≤ i then (chain mode q).getD i 0#8 ^^^ q.getD (i - 1) 0#8 else (chain mode q).getD i 0#8 := by
  rw [getD_chain_of_lt mode hq hi]
  by_cases hstart : sweepStart mode ≤ i
  · rw [if_pos hstart, if_pos hstart, BitVec.xor_assoc, BitVec.xor_self, BitVec.xor_zero]
  · rw [if_neg hstart, if_neg hstart]

theorem chain_injective {mode : ChainMode} {q q' : List Byte} (hq : q.length = 342) (hq' : q'.length = 342)
    (h : chain mode q = chain mode q') : q = q' := by
  obtain ⟨hstart, -⟩ := sweepStart_bounds mode
  refine eq_of_getD_eq (hq.trans hq'.symm) fun i hi => ?_
  rw [hq] at hi
  induction i using Nat.strongRecOn with
  | ind i ih =>
    rw [getD_of_chain mode hq hi, getD_of_chain mode hq' hi, h]
    split
    · next hswept => rw [ih (i - 1) (by omega) (by omega)]
    · rfl

theorem gcr62_injective {v v' : Byte} (hv : v.toNat < 2 ^ 6) (hv' : v'.toNat < 2 ^ 6) (h : gcr62 v = gcr62 v') : v = v' := by
  have hnodup : gcr62Table.Nodup := by decide
  have hlen : gcr62Table.length = 2 ^ 6 := rfl
  rw [gcr62, gcr62, List.getD_eq_getElem _ _ (hlen ▸ hv), List.getD_eq_getElem _ _ (hlen ▸ hv')] at h
  exact BitVec.eq_of_toNat_eq (hnodup.getElem_inj_iff.mp h)

theorem map_gcr62_injective {xs ys : List Byte} (hx : SixBits xs) (hy : SixBits ys) (h : xs.map gcr62 = ys.map gcr62) :
    xs = ys := by
  have hlen : xs.length = ys.length := by simpa using congrArg List.length h
  refine eq_of_getD_eq hlen fun i _ => gcr62_injective (hx.getD i) (hy.getD i) ?_
  rw [← List.getD_map xs 0#8 gcr62, ← List.getD_map ys 0#8 gcr62, h]

/-- Settles O35: translation, chaining and unchained values are each injective. -/
theorem sectorEncodingIsInjective : Obligations.SectorEncodingIsInjective := fun mode p p' hp hp' h =>
  unchained_injective hp hp' (chain_injective (unchained_length p) (unchained_length p')
    (map_gcr62_injective (chain_unchained_sixBits mode p) (chain_unchained_sixBits mode p') h))

end Sys2Proof.Machine
end

section
/-! ## Proofs: the sector commands (spec/42_sector_encoder.md R140, R144, R146 to R148)

SE_ENCODE reads the 256 bytes of its sector and writes the 343 bytes of their encoding; SE_EMIT reads those and puts them at the
cursor. Each stops at its first undefined byte. -/

namespace Sys2Proof.Machine

/-! ### What SE_ENCODE does -/

/-- Over a defined sector SE_ENCODE completes: EBUF takes the encoding of the payload, from its first byte on (R140). -/
theorem exec_seEncode_of_holds {s : State} {l : BitVec 4} {p : List Byte} (hp : p.length = 256)
    (hholds : Holds s .pbuf (256 * l.toNat) p) :
    exec (.seEncode l) s = .next (writeRange .ebuf 0 (encodeSector s.chainMode p) s) := by
  have hread : readRange .pbuf (sectorBase l.toNat) sectorBytes s = .ok p := readRange_eq_ok_iff_holds.mpr ⟨hp, hholds⟩
  refine exec_eq_next.mpr (.inl ?_)
  rw [commandBody, encodeBody, hread]

/-- A range whose bytes are all defined holds some list of bytes. -/
theorem Defined.exists_holds {s : State} {sp : Space} {a n : Nat} (h : Defined s sp a n) :
    ∃ p, p.length = n ∧ Holds s sp a p := by
  cases hread : readRange sp a n s with
  | ok p => exact ⟨p, readRange_eq_ok_iff_holds.mp hread⟩
  | error e =>
    obtain ⟨k, hk, -, hnone, -⟩ := readRange_eq_error hread
    have hsome := h (a + k) (by omega) (by omega)
    rw [hnone] at hsome
    cases hsome

/-- The disk byte at an index is the translation of the value there (R144). -/
theorem getElem?_encodeSector (mode : ChainMode) (p : List Byte) (i : Nat) :
    (encodeSector mode p)[i]? = ((chain mode (unchained p))[i]?).map gcr62 := List.getElem?_map

section
variable {s : State} {p : List Byte} {i : Nat}

theorem read_encoded_inside (hi : i < 343) :
    Memory.read (writeRange .ebuf 0 (encodeSector s.chainMode p) s).ebuf i = (encodeSector s.chainMode p)[i]? := by
  have hlt : i < (encodeSector s.chainMode p).length := by rwa [encodeSector_length]
  rw [← mem_ebuf, read_writeRange, dif_pos ⟨Nat.zero_le i, hlt⟩, List.getElem?_eq_getElem hlt]
  rfl

theorem read_encoded_outside (hi : 343 ≤ i) :
    Memory.read (writeRange .ebuf 0 (encodeSector s.chainMode p) s).ebuf i = Memory.read s.ebuf i := by
  rw [← mem_ebuf, read_writeRange, dif_neg (by rw [encodeSector_length]; omega), mem_ebuf]

end

/-- Settles O31: the encoding written to EBUF, and the frame of a range write. -/
theorem seEncodeFillsEbuf : Obligations.SeEncodeFillsEbuf := by
  intro s l p hp hholds
  refine ⟨_, exec_seEncode_of_holds hp hholds, ?_, fun i hi => ?_, fun a ha => read_encoded_outside ha⟩
  · rw [writeRange_eq_setMem]
    rfl
  · rw [read_encoded_inside hi, getElem?_encodeSector]

/-- Settles O32: the read of the payload stops there. -/
theorem seEncodeStopsAtTheFirstUndefinedByte : Obligations.SeEncodeStopsAtTheFirstUndefinedByte := by
  intro s l k hk hnone hdefined
  have hread : readRange .pbuf (sectorBase l.toNat) sectorBytes s = .error (.undefRead .pbuf (256 * l.toNat + k)) :=
    readRange_of_first_undefined hk hnone fun j hj => hdefined (256 * l.toNat + j) (by omega) (by omega)
  rw [exec_eq_complete, commandBody, encodeBody, hread]
  rfl

/-- Settles O33: inside EBUF each byte is one of the encoding, and outside it a canonical EBUF has none. -/
theorem seEncodeOutputIsTableEntries : Obligations.SeEncodeOutputIsTableEntries := by
  intro s l hwf hdefined
  obtain ⟨p, hp, hholds⟩ := hdefined.exists_holds
  refine ⟨_, exec_seEncode_of_holds hp hholds, fun i hi => ?_, fun i hi => ?_⟩
  · have hlt : i < (encodeSector s.chainMode p).length := by rwa [encodeSector_length]
    refine ⟨_, encodeSector_mem_gcr62Table s.chainMode p _ (List.getElem_mem hlt), ?_⟩
    rw [read_encoded_inside hi, List.getElem?_eq_getElem hlt]
  · rw [read_encoded_outside hi]
    exact read_eq_none_of_not_bounds hwf (by omega)

/-! ### The all-zero sector (R147) -/

theorem getD_zeros (n i : Nat) : (List.replicate n 0#8).getD i 0#8 = 0#8 := by
  rw [List.getD_eq_getElem?_getD, List.getElem?_getD_replicate_default_eq]

theorem unchained_zeros : unchained (List.replicate 256 0#8) = List.replicate 342 0#8 := by
  refine eq_of_getD_eq (by rw [unchained_length, List.length_replicate]) fun i hi => ?_
  rw [unchained_length] at hi
  rw [getD_zeros]
  by_cases hlow : i < 86
  · refine BitVec.eq_of_getLsbD_eq fun j hj => ?_
    rw [getLsbD_unchained_low List.length_replicate hlow hj, getD_zeros, BitVec.getLsbD_zero, Bool.and_false, BitVec.getLsbD_zero]
  · obtain ⟨c, rfl⟩ : ∃ c, i = 86 + c := Nat.exists_eq_add_of_le (by omega)
    rw [getD_unchained_high _ (by omega), getD_zeros]
    rfl

theorem chain_zeros (mode : ChainMode) : chain mode (List.replicate 342 0#8) = List.replicate 343 0#8 := by
  refine eq_of_getD_eq (by rw [chain_length, List.length_replicate, List.length_replicate]) fun i hi => ?_
  rw [chain_length, List.length_replicate] at hi
  rw [getD_zeros]
  by_cases hlast : i = 342
  · subst hlast
    rw [getD_chain_last mode List.length_replicate, getD_zeros]
    cases mode <;> rfl
  · rw [getD_chain_of_lt mode List.length_replicate (by omega), getD_zeros, getD_zeros, BitVec.xor_self, ite_self]

/-- Settles O34: every value of a zero payload stays 0 through the sweep, so every byte is the first entry of the table. -/
theorem allZeroSectorEncodesToTheFirstEntry : Obligations.AllZeroSectorEncodesToTheFirstEntry := by
  intro s l hzero
  have hholds : Holds s .pbuf (256 * l.toNat) (List.replicate 256 0#8) := by
    intro j hj
    rw [List.length_replicate] at hj
    rw [List.getElem?_replicate_of_lt hj]
    exact hzero j hj
  refine ⟨_, exec_seEncode_of_holds List.length_replicate hholds, fun i hi => ?_⟩
  rw [read_encoded_inside hi, getElem?_encodeSector, unchained_zeros, chain_zeros, List.getElem?_replicate_of_lt hi]
  rfl

/-! ### What SE_EMIT does -/

/-- Where 2744 bits fit, SE_EMIT ends as its reads and writes do (R148). -/
theorem exec_seEmit_of_fits {s : State} (hfits : s.bidx.toNat + 2744 ≤ capBits) :
    exec .seEmit s = complete .seEmit s (emitLoop 0 343 s) := by
  have hcheck : checkCapacity (ebufBytes * 8) s = .ok s := checkCapacity_eq_ok.mpr ⟨hfits, rfl⟩
  rw [exec_eq_complete, commandBody, emitBody, andThen, hcheck]
  rfl

theorem exec_seEmit_of_holds {s : State} {e : List Byte} (he : e.length = 343) (hholds : Holds s .ebuf 0 e)
    (hfits : s.bidx.toNat + 2744 ≤ capBits) : exec .seEmit s = .next (putBytes e s) := by
  rw [exec_seEmit_of_fits hfits, emitLoop_eq_ok_iff.mpr ⟨e, he, hholds, rfl⟩]
  rfl

/-- Settles O36: the bytes of EBUF put at the cursor. -/
theorem seEmitWritesEbuf : Obligations.SeEmitWritesEbuf := by
  intro s e he hholds hfits
  have hbits : 8 * e.length = 2744 := by rw [he]
  have hput : s.bidx.toNat + 8 * e.length ≤ capBits := by rwa [hbits]
  refine ⟨putBytes e s, exec_seEmit_of_holds he hholds hfits, putBytes_frame e s, ?_, fun i hi j hj => ?_,
    fun k hk => bit_putBytes_outside hput (by rwa [hbits]), fun a ha => read_putBytes_outside hput (by omega)⟩
  · rw [putBytes_bidx_toNat hput, hbits]
  · have hlt : i < e.length := he ▸ hi
    rw [bit_putBytes_inside hput hlt (j := 7 - j) (by omega) (by omega), List.getD_eq_getElem _ _ hlt]

/-- Settles O37: the check comes before the reads, and the reads stop at the first undefined byte. -/
theorem seEmitChecksCapacityThenReads : Obligations.SeEmitChecksCapacityThenReads := by
  intro s k hk hnone hdefined
  refine ⟨fun hfits => ?_, fun hexceeds => exec_of_capacity_exceeded rfl hexceeds⟩
  have hread : readRange .ebuf 0 343 s = .error (.undefRead .ebuf (0 + k)) :=
    readRange_of_first_undefined hk (by rwa [Nat.zero_add]) fun j hj => hdefined (0 + j) (by omega) (by omega)
  rw [exec_seEmit_of_fits hfits, emitLoop_eq_readRange, hread, Nat.zero_add]
  rfl

end Sys2Proof.Machine
end

section
/-! ## Proofs: the interleave maps (spec/43_track_encoder.md R161) -/

namespace Sys2Proof.Machine

/-- The shape of both interleave maps: slot 15 stays, and the others are multiplied by m modulo 15. -/
def slotMap (m x : Nat) : Nat := if x = 15 then 15 else (x * m) % 15

theorem slotMap_lt (m x : Nat) : slotMap m x < 16 := by
  unfold slotMap
  split <;> omega

/-- Multipliers that are inverse modulo 15 give inverse maps. -/
theorem slotMap_slotMap {m n x : Nat} (hinv : m * n % 15 = 1) (hx : x < 16) : slotMap n (slotMap m x) = x := by
  by_cases hlast : x = 15
  · subst hlast
    rfl
  · have hinner : x * m % 15 ≠ 15 := by omega
    rw [slotMap, slotMap, if_neg hlast, if_neg hinner, Nat.mod_mul_mod, Nat.mul_assoc, Nat.mul_mod, hinv, Nat.mul_one, Nat.mod_mod,
      Nat.mod_eq_of_lt (by omega)]

/-- The inverse of the interleave multiplier modulo 15. -/
def inverseMultiplier : Interleave → Nat
  | .primary => 13
  | .alternate => 2

theorem multiplier_mul_inverse (f : Interleave) : multiplier f * inverseMultiplier f % 15 = 1 := by cases f <;> rfl

theorem logicalSector_lt (k : Nat) (f : Interleave) : logicalSector k f < 16 := slotMap_lt _ _

/-- The physical slot that logical sector l is written into. -/
def physicalSlot (l : Nat) (f : Interleave) : Nat := slotMap (inverseMultiplier f) l

theorem physicalSlot_logicalSector {k : Nat} (hk : k < 16) (f : Interleave) : physicalSlot (logicalSector k f) f = k :=
  slotMap_slotMap (multiplier_mul_inverse f) hk

theorem logicalSector_physicalSlot {l : Nat} (hl : l < 16) (f : Interleave) : logicalSector (physicalSlot l f) f = l :=
  slotMap_slotMap (Nat.mul_comm _ _ ▸ multiplier_mul_inverse f) hl

/-- Settles O38: the two lists as they are computed, and the slot of each sector from the inverse map. -/
theorem interleaveMapsArePermutations : Obligations.InterleaveMapsArePermutations := by
  refine ⟨rfl, rfl, fun f l hl => ⟨physicalSlot l f, slotMap_lt _ _, logicalSector_physicalSlot hl f, ?_⟩⟩
  rintro k' hk' rfl
  exact (physicalSlot_logicalSector hk' f).symm

end Sys2Proof.Machine
end

section
/-! ## Proofs: the pieces of a bitstream (spec/20_memory.md R55, spec/41_bit_writer.md R122, R126)

A track is a list of pieces put at the cursor: a byte and the bits skipped after it, two for a sync word and none for any other
byte. What such a list does to TBUF and the cursor, and where it stands on zeroed bits, is said here once. -/

namespace Sys2Proof.Machine

/-- A byte put at the cursor, and how many bits are skipped after it. -/
structure Piece where
  byte : Byte
  slack : Nat

/-- How far a piece moves the cursor. -/
def Piece.bits (p : Piece) : Nat := 8 + p.slack

/-- The pieces of bytes that follow one another. -/
def plain (bytes : List Byte) : List Piece := bytes.map (⟨·, 0⟩)

/-- A sync word: 0xFF and two skipped bits (R126). -/
def syncPiece : Piece := ⟨syncByte, syncSlackBits⟩

/-! ### The length of a list of pieces -/

/-- How far a list of pieces moves the cursor. -/
def pieceBits (ps : List Piece) : Nat := (ps.map Piece.bits).sum

@[simp] theorem pieceBits_nil : pieceBits [] = 0 := rfl

@[simp] theorem pieceBits_cons (p : Piece) (ps : List Piece) : pieceBits (p :: ps) = p.bits + pieceBits ps := List.sum_cons

@[simp] theorem pieceBits_append (ps qs : List Piece) : pieceBits (ps ++ qs) = pieceBits ps + pieceBits qs := by
  simp [pieceBits]

@[simp] theorem pieceBits_plain (bytes : List Byte) : pieceBits (plain bytes) = 8 * bytes.length := by
  simp [pieceBits, plain, Function.comp_def, Piece.bits, Nat.mul_comm]

@[simp] theorem pieceBits_syncs (n : Nat) : pieceBits (List.replicate n syncPiece) = 10 * n := by
  simp [pieceBits, Piece.bits, syncPiece, syncSlackBits, Nat.mul_comm]

/-! ### Putting pieces at the cursor -/

/-- Puts the byte at the cursor and skips the bits after it. -/
def putPiece (p : Piece) (s : State) : State := advance p.slack (putByte p.byte s)

/-- Puts the pieces in order, each where the one before it left the cursor. -/
def putPieces (ps : List Piece) (s : State) : State := ps.foldl (fun u p => putPiece p u) s

@[simp] theorem putPieces_nil (s : State) : putPieces [] s = s := rfl

theorem putPieces_cons (p : Piece) (ps : List Piece) (s : State) : putPieces (p :: ps) s = putPieces ps (putPiece p s) := rfl

theorem putPieces_append (ps qs : List Piece) (s : State) : putPieces (ps ++ qs) s = putPieces qs (putPieces ps s) :=
  List.foldl_append

@[simp] theorem putPiece_plain (v : Byte) (s : State) : putPiece ⟨v, 0⟩ s = putByte v s := setBidx_bidx_self _

theorem putPieces_plain (bytes : List Byte) (s : State) : putPieces (plain bytes) s = putBytes bytes s := by
  induction bytes generalizing s with
  | nil => rfl
  | cons v vs ih => exact (congrArg _ (putPiece_plain v s)).trans (ih _)

@[simp] theorem putPiece_tbuf (p : Piece) (s : State) : (putPiece p s).tbuf = (putByte p.byte s).tbuf := rfl

theorem putPiece_bidx_toNat {p : Piece} {s : State} (hfits : s.bidx.toNat + p.bits ≤ capBits) :
    (putPiece p s).bidx.toNat = s.bidx.toNat + p.bits := by
  rw [Piece.bits] at hfits ⊢
  have hbyte := putByte_bidx_toNat (v := p.byte) (s := s) (by omega)
  rw [putPiece, advance_bidx_toNat (by omega), hbyte, Nat.add_assoc]

theorem putPieces_bidx_toNat {ps : List Piece} {s : State} (hfits : s.bidx.toNat + pieceBits ps ≤ capBits) :
    (putPieces ps s).bidx.toNat = s.bidx.toNat + pieceBits ps := by
  induction ps generalizing s with
  | nil => rfl
  | cons p ps ih =>
    rw [pieceBits_cons] at hfits ⊢
    have hfirst := putPiece_bidx_toNat (p := p) (s := s) (by omega)
    rw [putPieces_cons, ih (by omega), hfirst, Nat.add_assoc]

/-! ### What pieces leave alone -/

/-- Only TBUF and BIDX change. -/
theorem putPieces_frame (ps : List Piece) (s : State) :
    putPieces ps s = { s with tbuf := (putPieces ps s).tbuf, bidx := (putPieces ps s).bidx } := by
  induction ps generalizing s with
  | nil => rfl
  | cons p ps ih =>
    rw [putPieces_cons, ih, putPiece, putByte_eq]
    rfl

@[simp] theorem putPieces_pbuf (ps : List Piece) (s : State) : (putPieces ps s).pbuf = s.pbuf := by rw [putPieces_frame]

@[simp] theorem putPieces_ebuf (ps : List Piece) (s : State) : (putPieces ps s).ebuf = s.ebuf := by rw [putPieces_frame]

@[simp] theorem putPieces_chainMode (ps : List Piece) (s : State) : (putPieces ps s).chainMode = s.chainMode := by
  rw [putPieces_frame]

/-- What a piece does does not depend on EBUF. -/
theorem putPiece_setMem_ebuf (p : Piece) (s : State) (m : Memory) :
    putPiece p (s.setMem .ebuf m) = (putPiece p s).setMem .ebuf m := by
  unfold putPiece putByte put8
  simp only [setMem_bidx]
  split <;> rfl

theorem putPieces_setMem_ebuf (ps : List Piece) (s : State) (m : Memory) :
    putPieces ps (s.setMem .ebuf m) = (putPieces ps s).setMem .ebuf m := by
  induction ps generalizing s with
  | nil => rfl
  | cons p ps ih => rw [putPieces_cons, putPieces_cons, putPiece_setMem_ebuf, ih]

theorem writeRange_ebuf_putPieces (ps : List Piece) (a : Nat) (vs : List Byte) (s : State) :
    writeRange .ebuf a vs (putPieces ps s) = putPieces ps (writeRange .ebuf a vs s) := by
  induction vs generalizing a s with
  | nil => rfl
  | cons v vs ih =>
    have hfirst : memWrite .ebuf a v (putPieces ps s) = putPieces ps (memWrite .ebuf a v s) := by
      rw [memWrite, memWrite, putPieces_setMem_ebuf, mem_ebuf, mem_ebuf, putPieces_ebuf]
    rw [writeRange, writeRange, hfirst, ih]

/-- What pieces do to TBUF and the cursor depends on those two alone. -/
theorem putPieces_congr (ps : List Piece) {s s' : State} (htbuf : s'.tbuf = s.tbuf) (hbidx : s'.bidx = s.bidx) :
    (putPieces ps s').tbuf = (putPieces ps s).tbuf ∧ (putPieces ps s').bidx = (putPieces ps s).bidx := by
  induction ps generalizing s s' with
  | nil => exact ⟨htbuf, hbidx⟩
  | cons p ps ih =>
    refine ih ?_ ?_
    · simp only [putPiece_tbuf, putByte_tbuf, hbidx]
      unfold put8
      dsimp only
      split <;> simp [memOr, htbuf]
    · simp only [putPiece, advance, putByte_bidx, setBidx_bidx, hbidx]

/-! ### What pieces do to TBUF -/

theorem isSome_read_put8 (idx : Nat) (v : Byte) (s : State) (a : Nat) :
    (Memory.read (put8 idx v s).tbuf a).isSome = (Memory.read s.tbuf a).isSome := by
  rw [read_put8]
  split
  · exact Option.isSome_map
  · split
    · exact Option.isSome_map
    · rfl

/-- No byte becomes defined or undefined: every store is an OR (R53). -/
theorem isSome_read_putPieces (ps : List Piece) (s : State) (a : Nat) :
    (Memory.read (putPieces ps s).tbuf a).isSome = (Memory.read s.tbuf a).isSome := by
  induction ps generalizing s with
  | nil => rfl
  | cons p ps ih => rw [putPieces_cons, ih, putPiece_tbuf, putByte_tbuf, isSome_read_put8]

/-- The bits before the cursor and after the last piece stay. -/
theorem bit_putPieces_outside {ps : List Piece} {s : State} (hfits : s.bidx.toNat + pieceBits ps ≤ capBits) {k : Nat}
    (hk : k < s.bidx.toNat ∨ s.bidx.toNat + pieceBits ps ≤ k) :
    Memory.bit (putPieces ps s).tbuf k = Memory.bit s.tbuf k := by
  induction ps generalizing s with
  | nil => rfl
  | cons p ps ih =>
    rw [pieceBits_cons] at hfits hk
    have hfirst := putPiece_bidx_toNat (p := p) (s := s) (by omega)
    rw [putPieces_cons, ih (by omega) (by omega), putPiece_tbuf, putByte_tbuf, bit_put8, if_neg (by rw [Piece.bits] at hk; omega)]

/-! ### Where pieces stand -/

/-- The pieces stand in TBUF from bit index k on: each byte, and zero bits where its slack was skipped. -/
inductive PiecesAt (m : Memory) : (k : Nat) → List Piece → Prop
  | nil (k : Nat) : PiecesAt m k []
  | cons {k : Nat} {p : Piece} {ps : List Piece} (hbyte : BytesAt m k [p.byte])
      (hslack : ∀ i, i < p.slack → Memory.bit m (k + 8 + i) = some false) (hrest : PiecesAt m (k + p.bits) ps) :
      PiecesAt m k (p :: ps)

theorem piecesAt_cons {m : Memory} {k : Nat} {p : Piece} {ps : List Piece} :
    PiecesAt m k (p :: ps) ↔
      BytesAt m k [p.byte] ∧ (∀ i, i < p.slack → Memory.bit m (k + 8 + i) = some false) ∧ PiecesAt m (k + p.bits) ps :=
  ⟨fun | .cons hbyte hslack hrest => ⟨hbyte, hslack, hrest⟩, fun ⟨hbyte, hslack, hrest⟩ => .cons hbyte hslack hrest⟩

/-- On zeroed bits the pieces put are the pieces that stand there. -/
theorem piecesAt_putPieces {ps : List Piece} {s : State} (hfits : s.bidx.toNat + pieceBits ps ≤ capBits)
    (hzero : ∀ k, s.bidx.toNat ≤ k → k < s.bidx.toNat + pieceBits ps → Memory.bit s.tbuf k = some false) :
    PiecesAt (putPieces ps s).tbuf s.bidx.toNat ps := by
  induction ps generalizing s with
  | nil => exact .nil _
  | cons p ps ih =>
    rw [pieceBits_cons] at hfits hzero
    have hbits : p.bits = 8 + p.slack := rfl
    have hfirst := putPiece_bidx_toNat (p := p) (s := s) (by omega)
    have hput : s.bidx.toNat + 8 * [p.byte].length ≤ capBits := by
      rw [List.length_singleton]
      omega
    have hafter (k : Nat) (hk : s.bidx.toNat + 8 ≤ k) : Memory.bit (putPiece p s).tbuf k = Memory.bit s.tbuf k :=
      bit_putBytes_outside hput (.inr hk)
    have hkept (k : Nat) (hk : k < s.bidx.toNat + p.bits) :
        Memory.bit (putPieces ps (putPiece p s)).tbuf k = Memory.bit (putPiece p s).tbuf k :=
      bit_putPieces_outside (by omega) (by omega)
    have hbyte : BytesAt (putPiece p s).tbuf s.bidx.toNat [p.byte] := by
      refine bytesAt_putBytes hput fun k hlo hhi => hzero k hlo ?_
      rw [List.length_singleton] at hhi
      omega
    refine .cons (fun i hi j hj => ?_) (fun i hi => ?_) ?_
    · rw [← hbyte i hi j hj]
      rw [List.length_singleton] at hi
      exact hkept _ (by omega)
    · exact (hkept _ (by omega)).trans ((hafter _ (by omega)).trans (hzero _ (by omega) (by omega)))
    · rw [← hfirst]
      exact ih (s := putPiece p s) (by omega) fun k hlo hhi => (hafter k (by omega)).trans (hzero k (by omega) (by omega))

theorem piecesAt_append {m : Memory} {k : Nat} {ps qs : List Piece} :
    PiecesAt m k (ps ++ qs) ↔ PiecesAt m k ps ∧ PiecesAt m (k + pieceBits ps) qs := by
  induction ps generalizing k with
  | nil => simp [PiecesAt.nil]
  | cons p ps ih => simp only [List.cons_append, piecesAt_cons, ih, pieceBits_cons, Nat.add_assoc, and_assoc]

theorem bytesAt_cons {m : Memory} {k : Nat} {v : Byte} {vs : List Byte} :
    BytesAt m k (v :: vs) ↔ BytesAt m k [v] ∧ BytesAt m (k + 8) vs := by
  constructor
  · refine fun h => ⟨fun i hi j hj => ?_, fun i hi j hj => ?_⟩
    · obtain rfl : i = 0 := by simpa using hi
      exact h 0 (by simp) j hj
    · rw [← List.getElem_cons_succ v vs i (by simpa using hi), ← h (i + 1) (by simpa using hi) j hj]
      congr 1
      omega
  · rintro ⟨hfirst, hrest⟩ i hi j hj
    cases i with
    | zero => exact hfirst 0 (by simp) j hj
    | succ i =>
      rw [List.getElem_cons_succ, ← hrest i (by simpa using hi) j hj]
      congr 1
      omega

theorem piecesAt_plain {m : Memory} {k : Nat} {bytes : List Byte} : PiecesAt m k (plain bytes) ↔ BytesAt m k bytes := by
  induction bytes generalizing k with
  | nil => exact iff_of_true (.nil k) fun i hi => absurd hi (Nat.not_lt_zero i)
  | cons v vs ih =>
    rw [bytesAt_cons, ← ih]
    simp [plain, piecesAt_cons, Piece.bits]

theorem syncsAt_of_piecesAt {m : Memory} {k n : Nat} (h : PiecesAt m k (List.replicate n syncPiece)) : SyncsAt m k n := by
  induction n with
  | zero => exact fun i hi => absurd hi (Nat.not_lt_zero i)
  | succ n ih =>
    rw [List.replicate_succ', piecesAt_append, pieceBits_syncs] at h
    obtain ⟨hfront, hlast⟩ := h
    obtain ⟨hbyte, hslack, -⟩ := piecesAt_cons.mp hlast
    intro i hi
    obtain hlt | rfl := Nat.lt_succ_iff_lt_or_eq.mp hi
    · exact ih hfront i hlt
    · exact ⟨hbyte, hslack 0 Nat.two_pos, hslack 1 Nat.one_lt_two⟩

end Sys2Proof.Machine
end

section
/-! ## Proofs: TE_ENCODE as one list of pieces (spec/43_track_encoder.md R160 to R165)

Over a defined payload the bodies inside TE_ENCODE put one list of pieces, and EBUF takes the encoding of one sector after another. -/

namespace Sys2Proof.Machine

/-! ### Actions that put pieces -/

/-- Where the pieces fit, the action puts them and does nothing else. -/
def Puts (ps : List Piece) (act : State → Except Stop State) : Prop :=
  ∀ s, s.bidx.toNat + pieceBits ps ≤ capBits → act s = .ok (putPieces ps s)

theorem andThen_of_ok {f g : State → Except Stop State} {s t : State} (h : f s = .ok t) : andThen f g s = g t := by
  rw [andThen, h]

theorem Puts.andThen {ps qs : List Piece} {f g : State → Except Stop State} (hf : Puts ps f) (hg : Puts qs g) :
    Puts (ps ++ qs) (andThen f g) := by
  intro s hfits
  rw [pieceBits_append] at hfits
  have hfirst := putPieces_bidx_toNat (ps := ps) (s := s) (by omega)
  rw [andThen_of_ok (hf s (by omega)), hg _ (by omega), putPieces_append]

theorem Puts.forEach {α : Type} {act : α → State → Except Stop State} {g : α → List Piece} (h : ∀ x, Puts (g x) (act x))
    (xs : List α) : Puts (xs.flatMap g) (forEach act xs) := by
  induction xs with
  | nil => exact fun _ _ => rfl
  | cons x xs ih => exact (h x).andThen ih

theorem Puts.repeated {act : State → Except Stop State} {p : Piece} (h : Puts [p] act) (n : Nat) :
    Puts (List.replicate n p) (repeated n act) := by
  induction n with
  | zero => exact fun _ _ => rfl
  | succ n ih => exact h.andThen ih

theorem byteBody_puts (v : Byte) : Puts (plain [v]) (byteBody v) := by
  intro s hfits
  rw [pieceBits_plain, List.length_singleton] at hfits
  rw [byteBody_eq, if_neg (by omega), putPieces_plain]
  rfl

theorem w44Body_puts (v : Byte) : Puts (plain (fourAndFour v)) (w44Body v) := by
  intro s hfits
  have hbits : pieceBits (plain (fourAndFour v)) = 16 := pieceBits_plain _
  rw [w44Body_eq, if_neg (by omega), putPieces_plain]
  rfl

theorem syncBody_puts : Puts [syncPiece] syncBody := by
  intro s hfits
  have hbits : pieceBits [syncPiece] = 10 := rfl
  rw [syncBody_eq, if_neg (by omega)]
  rfl

theorem fieldBytes_puts (bytes : List Byte) : Puts (plain bytes) (fieldBytes bytes) := by
  have hpieces : plain bytes = bytes.flatMap (fun v => plain [v]) := List.map_eq_flatMap
  rw [hpieces]
  exact Puts.forEach byteBody_puts bytes

/-! ### The pieces of one physical sector (R160 step 3, R162) -/

/-- The address field, the gap after it and the data prologue of physical sector k. -/
def sectorHead (trk : Byte) (k : Nat) : State → Except Stop State :=
  andThen (addressField trk k) (andThen (repeated addrGapSyncs syncBody) (fieldBytes dataPrologue))

/-- The data epilogue of physical sector k and what follows it. -/
def sectorTail (k : Nat) : State → Except Stop State := andThen (fieldBytes epilogue) (sectorGap k)

theorem sectorBody_eq (trk : Byte) (f : Interleave) (k : Nat) :
    sectorBody trk f k = andThen (sectorHead trk k) (andThen (encodeBody (logicalSector k f))
      (andThen (forEach dataByte (List.range ebufBytes)) (sectorTail k))) := by
  simp only [sectorBody, sectorHead, dataField, sectorTail, andThen_assoc]

/-- The pieces of the address field (R162). -/
def addressPieces (trk : Byte) (k : Nat) : List Piece :=
  plain addrPrologue ++
    ([volume, trk, BitVec.ofNat 8 k, addressChecksum trk k].flatMap (fun v => plain (fourAndFour v)) ++ plain epilogue)

/-- The pieces of a physical sector before its data bytes. -/
def headPieces (trk : Byte) (k : Nat) : List Piece :=
  addressPieces trk k ++ (List.replicate addrGapSyncs syncPiece ++ plain dataPrologue)

/-- The pieces after a data field: sixteen sync words, or the filler byte after the last sector (R168). -/
def gapPieces (k : Nat) : List Piece := if k = 15 then plain [syncByte] else List.replicate sectorGapSyncs syncPiece

/-- The pieces of a physical sector after its data bytes. -/
def tailPieces (k : Nat) : List Piece := plain epilogue ++ gapPieces k

/-- The pieces of physical sector k whose 343 data bytes are e. -/
def sectorPieces (trk : Byte) (k : Nat) (e : List Byte) : List Piece := headPieces trk k ++ (plain e ++ tailPieces k)

theorem pieceBits_headPieces (trk : Byte) (k : Nat) : pieceBits (headPieces trk k) = 206 := by
  simp only [headPieces, addressPieces, pieceBits_append, List.flatMap_cons, List.flatMap_nil, pieceBits_plain, pieceBits_syncs]
  rfl

theorem pieceBits_tailPieces (k : Nat) : pieceBits (tailPieces k) = 24 + if k = 15 then 8 else 160 := by
  unfold tailPieces gapPieces
  rw [pieceBits_append, pieceBits_plain]
  split
  · rfl
  · rw [pieceBits_syncs]
    rfl

theorem pieceBits_sectorPieces (trk : Byte) (k : Nat) {e : List Byte} (he : e.length = 343) :
    pieceBits (sectorPieces trk k e) = sectorBits k := by
  rw [sectorPieces, pieceBits_append, pieceBits_append, pieceBits_headPieces, pieceBits_tailPieces, pieceBits_plain, he, sectorBits]
  omega

theorem sectorHead_puts (trk : Byte) (k : Nat) : Puts (headPieces trk k) (sectorHead trk k) :=
  ((fieldBytes_puts _).andThen ((Puts.forEach w44Body_puts _).andThen (fieldBytes_puts _))).andThen
    ((syncBody_puts.repeated _).andThen (fieldBytes_puts _))

theorem sectorTail_puts (k : Nat) : Puts (tailPieces k) (sectorTail k) := by
  refine (fieldBytes_puts _).andThen ?_
  unfold gapPieces sectorGap
  split
  · exact byteBody_puts _
  · exact syncBody_puts.repeated _

/-! ### The data bytes (R160 step 3b) -/

/-- Where the bytes fit, the data bytes are written as SE_EMIT writes them. -/
theorem forEach_dataByte_eq_emitLoop {i n : Nat} {s : State} (hfits : s.bidx.toNat + n * 8 ≤ capBits) :
    forEach dataByte (List.range' i n) s = emitLoop i n s := by
  induction n generalizing i s with
  | zero => rfl
  | succ n ih =>
    rw [List.range'_succ, forEach_cons, andThen, dataByte, emitLoop]
    cases memRead .ebuf i s with
    | error e => rfl
    | ok v =>
      have hbyte := putByte_bidx_toNat (v := v) (s := s) (by omega)
      simp only [byteBody_eq, if_neg (show ¬ s.bidx.toNat + 8 > capBits by omega)]
      exact ih (by omega)

theorem dataBytes_eq_emitLoop {s : State} (hfits : s.bidx.toNat + 2744 ≤ capBits) :
    forEach dataByte (List.range ebufBytes) s = emitLoop 0 ebufBytes s := by
  rw [List.range_eq_range', forEach_dataByte_eq_emitLoop hfits]

theorem dataBytes_of_holds {s : State} {e : List Byte} (he : e.length = 343) (hholds : Holds s .ebuf 0 e)
    (hfits : s.bidx.toNat + 2744 ≤ capBits) :
    forEach dataByte (List.range ebufBytes) s = .ok (putPieces (plain e) s) := by
  rw [dataBytes_eq_emitLoop hfits, putPieces_plain]
  exact emitLoop_eq_ok_iff.mpr ⟨e, he, hholds, rfl⟩

/-! ### The encoding of a logical sector -/

/-- The 256 bytes of logical sector l. -/
def sectorPayload (s : State) (l : Nat) : List Byte :=
  (List.range 256).map (fun j => (Memory.read s.pbuf (256 * l + j)).getD 0#8)

/-- The 343 disk bytes of logical sector l. -/
def sectorImage (s : State) (l : Nat) : List Byte := encodeSector s.chainMode (sectorPayload s l)

@[simp] theorem sectorPayload_length (s : State) (l : Nat) : (sectorPayload s l).length = 256 := by simp [sectorPayload]

@[simp] theorem sectorImage_length (s : State) (l : Nat) : (sectorImage s l).length = 343 := encodeSector_length _ _

theorem getElem?_sectorPayload (s : State) (l : Nat) {j : Nat} (hj : j < 256) :
    (sectorPayload s l)[j]? = some ((Memory.read s.pbuf (256 * l + j)).getD 0#8) := by
  rw [sectorPayload, List.getElem?_map, List.getElem?_range hj]
  rfl

theorem holds_sectorPayload {s : State} {l : Nat} (h : Defined s .pbuf (256 * l) 256) :
    Holds s .pbuf (256 * l) (sectorPayload s l) := by
  intro j hj
  rw [sectorPayload_length] at hj
  obtain ⟨v, hv⟩ := Option.isSome_iff_exists.mp (h (256 * l + j) (by omega) (by omega))
  rw [getElem?_sectorPayload s l hj, hv, ← mem_pbuf, hv]
  rfl

theorem sectorPayload_eq_of_holds {s : State} {l : Nat} {p : List Byte} (hp : p.length = 256)
    (h : Holds s .pbuf (256 * l) p) : sectorPayload s l = p := by
  refine List.ext_getElem ((sectorPayload_length s l).trans hp.symm) fun j hj hj' => Option.some_inj.mp ?_
  have hread := h j hj'
  rw [mem_pbuf] at hread
  rw [← List.getElem?_eq_getElem hj, getElem?_sectorPayload s l (by omega), hread, List.getElem?_eq_getElem hj']
  rfl

/-- The encodings depend on PBUF and CHAIN_MODE alone. -/
theorem sectorImage_congr {s s' : State} (hpbuf : s'.pbuf = s.pbuf) (hmode : s'.chainMode = s.chainMode) (l : Nat) :
    sectorImage s' l = sectorImage s l := by
  rw [sectorImage, sectorImage, sectorPayload, sectorPayload, hpbuf, hmode]

theorem Defined.of_pbuf_eq {s s' : State} {a n : Nat} (h : Defined s .pbuf a n) (hpbuf : s'.pbuf = s.pbuf) :
    Defined s' .pbuf a n := by
  intro b hlo hhi
  rw [mem_pbuf, hpbuf]
  exact h b hlo hhi

/-- Stores the encoding of logical sector l in EBUF. -/
def storeSector (l : Nat) (s : State) : State := writeRange .ebuf 0 (sectorImage s l) s

theorem encodeBody_of_defined {s : State} {l : Nat} (h : Defined s .pbuf (256 * l) 256) :
    encodeBody l s = .ok (storeSector l s) := by
  have hread : readRange .pbuf (sectorBase l) sectorBytes s = .ok (sectorPayload s l) :=
    readRange_eq_ok_iff_holds.mpr ⟨sectorPayload_length s l, holds_sectorPayload h⟩
  rw [encodeBody, hread]
  rfl

/-- Only EBUF changes. -/
theorem storeSector_frame (l : Nat) (s : State) : storeSector l s = s.setMem .ebuf (storeSector l s).ebuf :=
  writeRange_eq_setMem _ _ _ _

@[simp] theorem storeSector_bidx (l : Nat) (s : State) : (storeSector l s).bidx = s.bidx := by rw [storeSector_frame]; rfl
@[simp] theorem storeSector_pbuf (l : Nat) (s : State) : (storeSector l s).pbuf = s.pbuf := by rw [storeSector_frame]; rfl
@[simp] theorem storeSector_tbuf (l : Nat) (s : State) : (storeSector l s).tbuf = s.tbuf := by rw [storeSector_frame]; rfl
@[simp] theorem storeSector_chainMode (l : Nat) (s : State) : (storeSector l s).chainMode = s.chainMode := by
  rw [storeSector_frame]; rfl

theorem read_storeSector_inside (l : Nat) (s : State) {i : Nat} (hi : i < 343) :
    Memory.read (storeSector l s).ebuf i = (sectorImage s l)[i]? := read_encoded_inside hi

theorem read_storeSector_outside (l : Nat) (s : State) {a : Nat} (ha : 343 ≤ a) :
    Memory.read (storeSector l s).ebuf a = Memory.read s.ebuf a := read_encoded_outside ha

theorem holds_storeSector (l : Nat) (s : State) : Holds (storeSector l s) .ebuf 0 (sectorImage s l) := by
  intro j hj
  rw [sectorImage_length] at hj
  rw [Nat.zero_add, mem_ebuf, read_storeSector_inside l s hj]

theorem storeSector_putPieces (l : Nat) (ps : List Piece) (s : State) :
    storeSector l (putPieces ps s) = putPieces ps (storeSector l s) := by
  rw [storeSector, sectorImage_congr (putPieces_pbuf ps s) (putPieces_chainMode ps s), writeRange_ebuf_putPieces]
  rfl

/-! ### One physical sector -/

section
variable {trk : Byte} {f : Interleave} {k : Nat} {s : State}

/-- Over a defined payload physical sector k puts its pieces and leaves its encoding in EBUF. -/
theorem sectorBody_of_defined (hdefined : Defined s .pbuf (256 * logicalSector k f) 256)
    (hfits : s.bidx.toNat + sectorBits k ≤ capBits) :
    sectorBody trk f k s = .ok (putPieces (sectorPieces trk k (sectorImage s (logicalSector k f)))
      (storeSector (logicalSector k f) s)) := by
  rw [sectorBody_eq]
  generalize logicalSector k f = l at *
  have hhead := pieceBits_headPieces trk k
  have htail := pieceBits_tailPieces k
  have hdata : pieceBits (plain (sectorImage s l)) = 2744 := by rw [pieceBits_plain, sectorImage_length]
  rw [sectorBits] at hfits
  have hbidx := putPieces_bidx_toNat (ps := headPieces trk k) (s := storeSector l s) (by rw [storeSector_bidx]; omega)
  rw [storeSector_bidx] at hbidx
  have hstored : Holds (putPieces (headPieces trk k) (storeSector l s)) .ebuf 0 (sectorImage s l) := by
    simpa only [Holds, mem_ebuf, putPieces_ebuf] using holds_storeSector l s
  have hdataBidx := putPieces_bidx_toNat (ps := plain (sectorImage s l)) (s := putPieces (headPieces trk k) (storeSector l s))
    (by omega)
  rw [andThen_of_ok (sectorHead_puts trk k s (by omega)),
    andThen_of_ok (encodeBody_of_defined (hdefined.of_pbuf_eq (putPieces_pbuf _ s))), storeSector_putPieces,
    andThen_of_ok (dataBytes_of_holds (sectorImage_length s l) hstored (by omega)), sectorTail_puts k _ (by omega)]
  simp only [sectorPieces, putPieces_append]

end

/-! ### The sectors one after another -/

theorem forEach_range_succ (act : Nat → State → Except Stop State) (n : Nat) :
    forEach act (List.range (n + 1)) = andThen (forEach act (List.range n)) (act n) := by
  funext s
  rw [List.range_succ, forEach_append]
  refine congrArg (andThen (forEach act (List.range n)) · s) (funext fun t => ?_)
  rw [forEach_cons, andThen]
  cases act n t <;> rfl

/-- The pieces of the leader and of the first n physical sectors. -/
def trackPieces (trk : Byte) (f : Interleave) (s : State) : (n : Nat) → List Piece
  | 0 => List.replicate leaderSyncs syncPiece
  | n + 1 => trackPieces trk f s n ++ sectorPieces trk n (sectorImage s (logicalSector n f))

/-- Stores the encodings of the first n physical sectors in EBUF, one over the other. -/
def storeSectors (f : Interleave) : (n : Nat) → State → State
  | 0, s => s
  | n + 1, s => storeSector (logicalSector n f) (storeSectors f n s)

/-- TBUF zeroed and the cursor rewound: where the stream of a track starts (R160). -/
def trackStart (s : State) : State := (clearTbuf s).setBidx 0

@[simp] theorem trackStart_bidx (s : State) : (trackStart s).bidx = 0#32 := rfl
@[simp] theorem trackStart_pbuf (s : State) : (trackStart s).pbuf = s.pbuf := by simp [trackStart, clearTbuf]
@[simp] theorem trackStart_ebuf (s : State) : (trackStart s).ebuf = s.ebuf := by simp [trackStart, clearTbuf]
@[simp] theorem trackStart_chainMode (s : State) : (trackStart s).chainMode = s.chainMode := by simp [trackStart, clearTbuf]

theorem read_trackStart (s : State) (a : Nat) : Memory.read (trackStart s).tbuf a = if a < tbufBytes then some 0#8 else none := by
  rw [trackStart, setBidx_tbuf, read_clearTbuf]

/-- The state after the leader and the first n physical sectors. -/
def trackState (trk : Byte) (f : Interleave) (n : Nat) (s : State) : State :=
  putPieces (trackPieces trk f s n) (storeSectors f n (trackStart s))

section
variable (trk : Byte) (f : Interleave) (n : Nat) (s : State)

@[simp] theorem storeSectors_bidx : (storeSectors f n s).bidx = s.bidx := by
  induction n with
  | zero => rfl
  | succ n ih => exact (storeSector_bidx _ _).trans ih

@[simp] theorem storeSectors_pbuf : (storeSectors f n s).pbuf = s.pbuf := by
  induction n with
  | zero => rfl
  | succ n ih => exact (storeSector_pbuf _ _).trans ih

@[simp] theorem storeSectors_tbuf : (storeSectors f n s).tbuf = s.tbuf := by
  induction n with
  | zero => rfl
  | succ n ih => exact (storeSector_tbuf _ _).trans ih

@[simp] theorem storeSectors_chainMode : (storeSectors f n s).chainMode = s.chainMode := by
  induction n with
  | zero => rfl
  | succ n ih => exact (storeSector_chainMode _ _).trans ih

theorem read_storeSectors_outside {a : Nat} (ha : 343 ≤ a) :
    Memory.read (storeSectors f n s).ebuf a = Memory.read s.ebuf a := by
  induction n with
  | zero => rfl
  | succ n ih => exact (read_storeSector_outside _ _ ha).trans ih

@[simp] theorem trackState_pbuf : (trackState trk f n s).pbuf = s.pbuf := by simp [trackState]

@[simp] theorem trackState_chainMode : (trackState trk f n s).chainMode = s.chainMode := by simp [trackState]

@[simp] theorem trackState_ebuf : (trackState trk f n s).ebuf = (storeSectors f n (trackStart s)).ebuf := by
  rw [trackState, putPieces_ebuf]

theorem trackState_succ : trackState trk f (n + 1) s =
    putPieces (sectorPieces trk n (sectorImage s (logicalSector n f))) (storeSector (logicalSector n f) (trackState trk f n s)) := by
  rw [trackState, trackState, trackPieces, putPieces_append, storeSector_putPieces]
  rfl

end

theorem sectorBits_of_lt {k : Nat} (hk : k < 15) : sectorBits k = 3134 := by
  rw [sectorBits, if_neg (by omega)]

theorem pieceBits_trackPieces_succ (trk : Byte) (f : Interleave) (s : State) (n : Nat) :
    pieceBits (trackPieces trk f s (n + 1)) = pieceBits (trackPieces trk f s n) + sectorBits n := by
  rw [trackPieces, pieceBits_append, pieceBits_sectorPieces _ _ (sectorImage_length _ _)]

/-- The pieces before physical sector k end at its first bit (R163). -/
theorem pieceBits_trackPieces (trk : Byte) (f : Interleave) (s : State) {k : Nat} (hk : k < 16) :
    pieceBits (trackPieces trk f s k) = sectorStart k := by
  induction k with
  | zero => rw [trackPieces, pieceBits_syncs]; rfl
  | succ k ih =>
    rw [pieceBits_trackPieces_succ, ih (by omega), sectorBits_of_lt (by omega), sectorStart, sectorStart]
    omega

/-- The pieces of a track are 50632 bits (R164). -/
theorem pieceBits_trackPieces_all (trk : Byte) (f : Interleave) (s : State) : pieceBits (trackPieces trk f s 16) = 50632 := by
  rw [pieceBits_trackPieces_succ, pieceBits_trackPieces trk f s (by omega)]
  rfl

section
variable {trk : Byte} {f : Interleave} {n : Nat} {s : State}

theorem trackState_bidx_toNat (hn : n < 16) : (trackState trk f n s).bidx.toNat = sectorStart n := by
  have hstart : (storeSectors f n (trackStart s)).bidx.toNat = 0 := by rw [storeSectors_bidx, trackStart_bidx]; rfl
  have hbits := pieceBits_trackPieces trk f s hn
  have hfits : sectorStart n ≤ capBits := by
    rw [sectorStart, capBits]
    omega
  rw [trackState, putPieces_bidx_toNat (by omega), hstart, hbits, Nat.zero_add]

theorem sector_fits (hn : n < 16) : (trackState trk f n s).bidx.toNat + sectorBits n ≤ capBits := by
  rw [trackState_bidx_toNat hn, sectorBits, sectorStart, capBits]
  split <;> omega

/-- Where the first n physical sectors have defined payloads, the leader and those sectors complete. -/
theorem sectors_of_defined (hn : n ≤ 16) (hdefined : ∀ k, k < n → Defined s .pbuf (256 * logicalSector k f) 256) :
    andThen (repeated leaderSyncs syncBody) (forEach (sectorBody trk f) (List.range n)) (trackStart s) =
      .ok (trackState trk f n s) := by
  induction n with
  | zero =>
    have hleader : repeated leaderSyncs syncBody (trackStart s) = .ok (trackState trk f 0 s) := by
      rw [trackState]
      exact syncBody_puts.repeated leaderSyncs _ (by rw [pieceBits_syncs, trackStart_bidx, leaderSyncs, capBits]; decide)
    rw [andThen_of_ok hleader]
    rfl
  | succ n ih =>
    have hsector := sectorBody_of_defined (trk := trk) ((hdefined n n.lt_succ_self).of_pbuf_eq (trackState_pbuf trk f n s))
      (sector_fits (by omega))
    rw [forEach_range_succ, andThen_assoc, andThen_of_ok (ih (by omega) fun k hk => hdefined k (by omega)), hsector, trackState_succ,
      sectorImage_congr (trackState_pbuf trk f n s) (trackState_chainMode trk f n s)]

theorem trackStream_of_defined (hdefined : ∀ k, k < 16 → Defined s .pbuf (256 * logicalSector k f) 256) :
    trackStream trk f (trackStart s) = .ok (trackState trk f 16 s) := sectors_of_defined le_rfl hdefined

/-- A payload all of whose bytes are defined has defined sectors. -/
theorem Defined.sector (h : Defined s .pbuf 0 4096) {l : Nat} (hl : l < 16) : Defined s .pbuf (256 * l) 256 :=
  fun a _ hhi => h a (Nat.zero_le a) (by omega)

/-- The stream of a track writes TBUF, EBUF and BIDX alone. -/
theorem wroteTrack_of_trackStream {u : State} (h : trackStream trk f (trackStart s) = .ok u) : WroteTrack s u := by
  obtain ⟨m, e, n, rfl⟩ := trackStream_keeps (wroteTrack_keptByCursorWrites _) (wroteTrack_keptByEncode _) trk f _ _
    (WroteTrack.refl _) h
  exact ⟨m, e, n, by simp only [trackStart, clearTbuf, State.setMem, State.setBidx]⟩

/-- Over a defined payload TE_ENCODE completes (R160, R164). The track state stands behind an equation, so that no later proof
computes it. -/
theorem exists_exec_teEncode (trk : Byte) (f : Interleave) (h : Defined s .pbuf 0 4096) :
    ∃ u, u = trackState trk f 16 s ∧ WroteTrack s u ∧ exec (.teEncode trk f) s = .next (u.setTrack trk f) := by
  have hstream := trackStream_of_defined (trk := trk) (f := f) fun k _ => h.sector (logicalSector_lt k f)
  exact ⟨_, rfl, wroteTrack_of_trackStream hstream, exec_eq_next.mpr (.inl (trackBody_eq_ok.mpr ⟨_, hstream, rfl⟩))⟩

end

/-! ### What the track leaves in the three RAMs and the registers -/

section
variable (trk : Byte) (f : Interleave) (s : State)

theorem bit_trackStart {k : Nat} (hk : k < capBits) : Memory.bit (trackStart s).tbuf k = some false := by
  rw [capBits] at hk
  refine bit_eq_false_of_read_zero ((read_trackStart s (k / 8)).trans (if_pos ?_))
  rw [tbufBytes]
  omega

/-- The track state's TBUF and cursor are those the pieces leave on zeroed TBUF. -/
theorem trackState_eq_putPieces (n : Nat) :
    (trackState trk f n s).tbuf = (putPieces (trackPieces trk f s n) (trackStart s)).tbuf ∧
      (trackState trk f n s).bidx = (putPieces (trackPieces trk f s n) (trackStart s)).bidx := by
  rw [trackState]
  exact putPieces_congr (trackPieces trk f s n) (storeSectors_tbuf f n (trackStart s)) (storeSectors_bidx f n (trackStart s))

theorem trackPieces_fit : (trackStart s).bidx.toNat + pieceBits (trackPieces trk f s 16) ≤ capBits := by
  rw [pieceBits_trackPieces_all, trackStart_bidx, capBits]
  decide

theorem piecesAt_trackState : PiecesAt (trackState trk f 16 s).tbuf 0 (trackPieces trk f s 16) := by
  obtain ⟨htbuf, -⟩ := trackState_eq_putPieces trk f s 16
  have hfit := trackPieces_fit trk f s
  have hpieces := piecesAt_putPieces hfit fun k _ hk => bit_trackStart s (by omega)
  rwa [trackStart_bidx, BitVec.toNat_zero, ← htbuf] at hpieces

theorem trackState_bidx : (trackState trk f 16 s).bidx = 50632#32 := by
  obtain ⟨-, hbidx⟩ := trackState_eq_putPieces trk f s 16
  refine BitVec.eq_of_toNat_eq ?_
  rw [hbidx, putPieces_bidx_toNat (trackPieces_fit trk f s), pieceBits_trackPieces_all, trackStart_bidx]
  rfl

end

end Sys2Proof.Machine
end

section
/-! ## Proofs: the track that TE_ENCODE leaves (spec/43_track_encoder.md R160 to R165) -/

namespace Sys2Proof.Machine

/-! ### Where the fields stand (R162, R163) -/

/-- The pieces of physical sector k lie between those before it and those after it. -/
theorem exists_trackPieces_eq (trk : Byte) (f : Interleave) (s : State) {k n : Nat} (hk : k < n) :
    ∃ rest, trackPieces trk f s n =
      trackPieces trk f s k ++ (sectorPieces trk k (sectorImage s (logicalSector k f)) ++ rest) := by
  induction n with
  | zero => exact absurd hk (Nat.not_lt_zero k)
  | succ n ih =>
    obtain hlt | rfl := Nat.lt_succ_iff_lt_or_eq.mp hk
    · obtain ⟨rest, hrest⟩ := ih hlt
      exact ⟨rest ++ sectorPieces trk n (sectorImage s (logicalSector n f)), by
        rw [trackPieces, hrest, List.append_assoc, List.append_assoc]⟩
    · exact ⟨[], by rw [List.append_nil, trackPieces]⟩

theorem piecesAt_leader_sector (trk : Byte) (f : Interleave) (s : State) {k : Nat} (hk : k < 16) :
    PiecesAt (trackState trk f 16 s).tbuf 0 (trackPieces trk f s k) ∧
      PiecesAt (trackState trk f 16 s).tbuf (sectorStart k) (sectorPieces trk k (sectorImage s (logicalSector k f))) := by
  obtain ⟨rest, hrest⟩ := exists_trackPieces_eq trk f s hk
  have htrack := piecesAt_trackState trk f s
  rw [hrest, piecesAt_append, piecesAt_append, pieceBits_trackPieces trk f s hk, Nat.zero_add] at htrack
  obtain ⟨hbefore, hsector, -⟩ := htrack
  exact ⟨hbefore, hsector⟩

section
variable {m : Memory} {b k : Nat} {trk : Byte}

theorem fields_of_headPieces (h : PiecesAt m b (headPieces trk k)) :
    BytesAt m b addrPrologue ∧ BytesAt m (b + 24) (fourAndFour volume) ∧ BytesAt m (b + 40) (fourAndFour trk) ∧
      BytesAt m (b + 56) (fourAndFour (BitVec.ofNat 8 k)) ∧ BytesAt m (b + 72) (fourAndFour (addressChecksum trk k)) ∧
      BytesAt m (b + 88) epilogue ∧ SyncsAt m (b + 112) 7 ∧ BytesAt m (b + 182) dataPrologue := by
  have hpair (v : Byte) : pieceBits (plain (fourAndFour v)) = 16 := pieceBits_plain _
  have hprologue : pieceBits (plain addrPrologue) = 24 := rfl
  have hepilogue : pieceBits (plain epilogue) = 24 := rfl
  have hgap : pieceBits (List.replicate addrGapSyncs syncPiece) = 70 := pieceBits_syncs _
  simp only [headPieces, addressPieces, List.flatMap_cons, List.flatMap_nil, List.append_nil, List.append_assoc, piecesAt_append,
    hpair, hprologue, hepilogue, hgap, Nat.add_assoc, Nat.reduceAdd, piecesAt_plain] at h
  obtain ⟨hprologueAt, hvolume, htrack, hsector, hchecksum, hepilogueAt, hgapAt, hdataAt⟩ := h
  exact ⟨hprologueAt, hvolume, htrack, hsector, hchecksum, hepilogueAt, syncsAt_of_piecesAt hgapAt, hdataAt⟩

theorem fields_of_tailPieces (h : PiecesAt m b (tailPieces k)) (hk : k < 16) :
    BytesAt m b epilogue ∧ if k < 15 then SyncsAt m (b + 24) 16 else BytesAt m (b + 24) [syncByte] := by
  obtain ⟨hepilogue, hgap⟩ := piecesAt_append.mp h
  refine ⟨piecesAt_plain.mp hepilogue, ?_⟩
  unfold gapPieces at hgap
  split
  · rw [if_neg (by omega)] at hgap
    exact syncsAt_of_piecesAt hgap
  · rw [if_pos (by omega)] at hgap
    exact piecesAt_plain.mp hgap

end

/-- Settles O40: the pieces of the track, cut at the first bit of each sector and then at each field. -/
theorem trackLayout : Obligations.TrackLayout := by
  intro s trk f hdefined
  obtain ⟨u, hu, -, hexec⟩ := exists_exec_teEncode trk f hdefined
  refine ⟨_, hexec, ?_, fun k hk => ?_⟩
  · obtain ⟨hleader, -⟩ := piecesAt_leader_sector trk f s (k := 0) (by omega)
    rw [setTrack_tbuf, hu]
    exact syncsAt_of_piecesAt hleader
  · obtain ⟨-, hsector⟩ := piecesAt_leader_sector trk f s hk
    rw [← hu, sectorPieces, piecesAt_append, piecesAt_append, pieceBits_headPieces, pieceBits_plain, sectorImage_length] at hsector
    obtain ⟨hhead, hdata, htail⟩ := hsector
    obtain ⟨hprologue, hvolume, htrack, hnumber, hchecksum, hepilogue, hgap, hdataPrologue⟩ := fields_of_headPieces hhead
    obtain ⟨hdataEpilogue, hafter⟩ := fields_of_tailPieces htail hk
    refine ⟨hprologue, hvolume, htrack, hnumber, hchecksum, hepilogue, hgap, hdataPrologue, fun p hp hholds => ?_,
      hdataEpilogue, hafter⟩
    have hbytes := piecesAt_plain.mp hdata
    rwa [sectorImage, sectorPayload_eq_of_holds hp hholds] at hbytes

/-! ### The end state (R26, R27, R164, R165) -/

theorem trkfmtWord_eq (trk : Byte) (f : Interleave) :
    trkfmtWord trk f = trk.setWidth 32 ||| (match f with | .primary => 0#32 | .alternate => 0x100#32) := by
  cases f <;> rfl

section
variable (trk : Byte) (f : Interleave) (s : State) {a : Nat}

theorem isSome_read_trackState : (Memory.read (trackState trk f 16 s).tbuf a).isSome = decide (a < 6656) := by
  obtain ⟨htbuf, -⟩ := trackState_eq_putPieces trk f s 16
  rw [htbuf, isSome_read_putPieces, read_trackStart, tbufBytes]
  split <;> simp [*]

/-- After the last bit of the track TBUF keeps its zeros (R165). -/
theorem read_trackState_tail (hlo : 6329 ≤ a) (hhi : a < 6656) :
    Memory.read (trackState trk f 16 s).tbuf a = some 0#8 := by
  obtain ⟨htbuf, -⟩ := trackState_eq_putPieces trk f s 16
  have hkept : Memory.read (trackState trk f 16 s).tbuf a = Memory.read (trackStart s).tbuf a := by
    rw [htbuf]
    refine read_eq_of_bits fun k hk => bit_putPieces_outside (trackPieces_fit trk f s) (.inr ?_)
    rw [pieceBits_trackPieces_all, trackStart_bidx, BitVec.toNat_zero]
    omega
  rw [hkept, read_trackStart, tbufBytes, if_pos hhi]

/-- EBUF is left with the encoding of logical sector 15, the last one written (R161, R165). -/
theorem read_trackState_ebuf (ha : a < 343) : Memory.read (trackState trk f 16 s).ebuf a = (sectorImage s 15)[a]? := by
  rw [trackState_ebuf, storeSectors, read_storeSector_inside _ _ ha, sectorImage_congr (s := s) (by simp) (by simp)]
  rfl

end

/-- Settles O39, one clause for each register and RAM. -/
theorem teEncodeCompletes : Obligations.TeEncodeCompletes := by
  intro s trk f hdefined
  obtain ⟨u, hu, hwrote, hexec⟩ := exists_exec_teEncode trk f hdefined
  refine ⟨_, hexec, ?_, trkfmtWord_eq trk f, fun a ha => ?_, fun a hlo hhi => ?_, fun a ha => ?_, fun p hp hholds i hi => ?_,
    fun a ha => ?_⟩
  · have hbidx : u.bidx = 50632#32 := by rw [hu, trackState_bidx]
    obtain ⟨m, e, n, rfl⟩ := hwrote
    rw [setBidx_bidx] at hbidx
    simp only [State.setBidx, State.setTrack, hbidx]
    rfl
  · rw [setTrack_tbuf, hu, isSome_read_trackState, decide_eq_true ha]
  · rw [setTrack_tbuf, hu, read_trackState_tail trk f s hlo hhi]
  · rw [setTrack_tbuf, hu, ← Option.not_isSome_iff_eq_none, isSome_read_trackState, decide_eq_true_iff]
    omega
  · rw [setTrack_ebuf, hu, read_trackState_ebuf trk f s hi, sectorImage, sectorPayload_eq_of_holds hp hholds]
  · rw [setTrack_ebuf, hu, trackState_ebuf, read_storeSectors_outside f 16 _ ha, trackStart_ebuf]

/-! ### What the track depends on (R160) -/

theorem trackPieces_congr (trk : Byte) (f : Interleave) {s s' : State} (hpbuf : s'.pbuf = s.pbuf)
    (hmode : s'.chainMode = s.chainMode) (n : Nat) : trackPieces trk f s' n = trackPieces trk f s n := by
  induction n with
  | zero => rfl
  | succ n ih => rw [trackPieces, trackPieces, ih, sectorImage_congr hpbuf hmode]

theorem trackStart_tbuf_congr (s s' : State) : (trackStart s').tbuf = (trackStart s).tbuf := by
  simp only [trackStart, clearTbuf, setBidx_tbuf, setMem_tbuf_tbuf]

theorem trackState_tbuf_congr (trk : Byte) (f : Interleave) {s s' : State} (hpbuf : s'.pbuf = s.pbuf)
    (hmode : s'.chainMode = s.chainMode) : (trackState trk f 16 s').tbuf = (trackState trk f 16 s).tbuf := by
  obtain ⟨h, -⟩ := trackState_eq_putPieces trk f s 16
  obtain ⟨h', -⟩ := trackState_eq_putPieces trk f s' 16
  obtain ⟨hput, -⟩ := putPieces_congr (trackPieces trk f s 16) (trackStart_tbuf_congr s s')
    ((trackStart_bidx s').trans (trackStart_bidx s).symm)
  rw [h, h', trackPieces_congr trk f hpbuf hmode, hput]

/-- Settles O43: the pieces are the same, and so are the zeroed TBUF and the rewound cursor they are put at. -/
theorem trackDependsOnPayloadAlone : Obligations.TrackDependsOnPayloadAlone := by
  intro s s' trk f hpbuf hmode hdefined
  obtain ⟨u, hu, -, hexec⟩ := exists_exec_teEncode trk f hdefined
  obtain ⟨u', hu', -, hexec'⟩ := exists_exec_teEncode trk f (hdefined.of_pbuf_eq hpbuf)
  have htbuf : u'.tbuf = u.tbuf := by rw [hu, hu', trackState_tbuf_congr trk f hpbuf hmode]
  have hbidx : u'.bidx = u.bidx := by rw [hu, hu', trackState_bidx, trackState_bidx]
  refine ⟨_, _, hexec, hexec', htbuf, hbidx, hbidx, rfl, fun i hi => ?_⟩
  rw [setTrack_ebuf, setTrack_ebuf, hu, hu', read_trackState_ebuf trk f s' hi, read_trackState_ebuf trk f s hi,
    sectorImage_congr hpbuf hmode]

end Sys2Proof.Machine
end

section
/-! ## Proofs: TE_ENCODE over a payload with an undefined byte (spec/43_track_encoder.md R160, spec/60_exceptions.md R206, R207) -/

namespace Sys2Proof.Machine

theorem readRange_congr {sp : Space} {s s' : State} (hmem : s'.mem sp = s.mem sp) (a n : Nat) :
    readRange sp a n s' = readRange sp a n s := by
  induction n generalizing a with
  | zero => rfl
  | succ n ih => simp only [readRange, memRead, hmem, ih]

/-- A range with an undefined byte has a first one. -/
theorem exists_first_undefined {s : State} {sp : Space} {a n : Nat} (h : ¬ Defined s sp a n) :
    ∃ j, j < n ∧ Memory.read (s.mem sp) (a + j) = none ∧ Defined s sp a j := by
  cases hread : readRange sp a n s with
  | ok p =>
    obtain ⟨hlen, hp⟩ := readRange_eq_ok.mp hread
    refine absurd (fun b hlo hhi => ?_) h
    have hb := hp (b - a) (by omega)
    rw [Nat.add_sub_cancel' hlo] at hb
    rw [hb]
    rfl
  | error e =>
    obtain ⟨j, hj, -, hnone, hsome⟩ := readRange_eq_error hread
    refine ⟨j, hj, hnone, fun b hlo hhi => ?_⟩
    have hb := hsome (b - a) (by omega)
    rwa [Nat.add_sub_cancel' hlo] at hb

/-- A loop over 0 to n - 1 stops where one of its passes does. -/
theorem forEach_range_eq_error {act : Nat → State → Except Stop State} {k n : Nat} (hk : k < n) {s t : State} {e : Stop}
    (hbefore : forEach act (List.range k) s = .ok t) (hstop : act k t = .error e) :
    forEach act (List.range n) s = .error e := by
  induction n with
  | zero => exact absurd hk (Nat.not_lt_zero k)
  | succ n ih =>
    rw [forEach_range_succ, andThen_eq_error]
    obtain hlt | rfl := Nat.lt_succ_iff_lt_or_eq.mp hk
    · exact .inl (ih hlt)
    · exact .inr ⟨t, hbefore, hstop⟩

section
variable {trk : Byte} {f : Interleave} {s : State} {k j : Nat}

/-- A physical sector whose payload has an undefined byte stops at the first one. -/
theorem sectorBody_of_undefined (hj : j < 256) (hnone : Memory.read s.pbuf (256 * logicalSector k f + j) = none)
    (hdefined : Defined s .pbuf (256 * logicalSector k f) j) (hfits : s.bidx.toNat + sectorBits k ≤ capBits) :
    sectorBody trk f k s = .error (.undefRead .pbuf (256 * logicalSector k f + j)) := by
  have hread : readRange .pbuf (sectorBase (logicalSector k f)) sectorBytes s =
      .error (.undefRead .pbuf (256 * logicalSector k f + j)) :=
    readRange_of_first_undefined hj hnone fun i hi => hdefined (256 * logicalSector k f + i) (by omega) (by omega)
  have hencode : encodeBody (logicalSector k f) (putPieces (headPieces trk k) s) =
      .error (.undefRead .pbuf (256 * logicalSector k f + j)) := by
    rw [encodeBody, readRange_congr (sp := .pbuf) (s := s) (putPieces_pbuf _ s), hread]
  have hhead := pieceBits_headPieces trk k
  rw [sectorBits] at hfits
  rw [sectorBody_eq, andThen_of_ok (sectorHead_puts trk k s (by omega))]
  exact andThen_eq_error.mpr (.inl hencode)

/-- TE_ENCODE stops in the first physical slot whose payload has an undefined byte. -/
theorem exec_teEncode_of_undefined (hk : k < 16) (hj : j < 256)
    (hnone : Memory.read s.pbuf (256 * logicalSector k f + j) = none)
    (hbefore : ∀ k', k' < k → Defined s .pbuf (256 * logicalSector k' f) 256)
    (hdefined : Defined s .pbuf (256 * logicalSector k f) j) :
    exec (.teEncode trk f) s = .fault (.undefRead .pbuf (256 * logicalSector k f + j)) := by
  have hpbuf := trackState_pbuf trk f k s
  have hsector : sectorBody trk f k (trackState trk f k s) = .error (.undefRead .pbuf (256 * logicalSector k f + j)) :=
    sectorBody_of_undefined hj (by rw [hpbuf, hnone]) (hdefined.of_pbuf_eq hpbuf) (sector_fits hk)
  obtain ⟨t, hleader, hsectors⟩ := andThen_eq_ok.mp (sectors_of_defined (trk := trk) hk.le hbefore)
  have hstream : trackStream trk f (trackStart s) = .error (.undefRead .pbuf (256 * logicalSector k f + j)) :=
    andThen_eq_error.mpr (.inr ⟨t, hleader, forEach_range_eq_error hk hsectors hsector⟩)
  have hbody : trackBody trk f s = .error (.undefRead .pbuf (256 * logicalSector k f + j)) := by
    rw [trackBody_eq]
    exact andThen_eq_error.mpr (.inl hstream)
  rw [exec_eq_complete, commandBody, hbody]
  rfl

end

/-- Settles O42: an undefined byte lies in the sector of some slot, and the first such slot stops at its first undefined byte. -/
theorem teEncodeStopsAtAnUndefinedByte : Obligations.TeEncodeStopsAtAnUndefinedByte := by
  intro s trk f
  refine ⟨fun a ha hnone => ?_, fun k j hk hj hnone hbefore hdefined => exec_teEncode_of_undefined hk hj hnone hbefore hdefined⟩
  classical
  have hslot : ∃ k, k < 16 ∧ ¬ Defined s .pbuf (256 * logicalSector k f) 256 := by
    refine ⟨physicalSlot (a / 256) f, slotMap_lt _ _, fun h => ?_⟩
    rw [logicalSector_physicalSlot (by omega)] at h
    have hsome := h a (by omega) (by omega)
    rw [mem_pbuf, hnone] at hsome
    cases hsome
  obtain ⟨hk, hundefined⟩ := Nat.find_spec hslot
  have hbefore (k : Nat) (hlt : k < Nat.find hslot) : Defined s .pbuf (256 * logicalSector k f) 256 :=
    not_not.mp fun h => Nat.find_min hslot hlt ⟨by omega, h⟩
  obtain ⟨j, hj, hfirst, hdefined⟩ := exists_first_undefined hundefined
  have hsector := logicalSector_lt (Nat.find hslot) f
  exact ⟨_, by omega, hfirst, exec_teEncode_of_undefined hk hj hfirst hbefore hdefined⟩

end Sys2Proof.Machine
end

section
/-! ## Proofs: TE_ENCODE and its command sequence (spec/43_track_encoder.md R166)

The bodies inside TE_ENCODE are those of the rule's commands, but for the data bytes, which SE_EMIT checks once and TE_ENCODE one by
one. No body depends on what the host has still to do, so a run of the commands is their bodies one after another. -/

namespace Sys2Proof.Machine

/-! ### Loops over lists of commands -/

theorem forEach_append_eq {α : Type} (act : α → State → Except Stop State) (xs ys : List α) :
    forEach act (xs ++ ys) = andThen (forEach act xs) (forEach act ys) :=
  funext (forEach_append act xs ys)

theorem forEach_singleton {α : Type} (act : α → State → Except Stop State) (x : α) : forEach act [x] = act x := by
  funext s
  rw [forEach_cons, andThen]
  cases act x s <;> rfl

theorem forEach_map {α β : Type} (act : β → State → Except Stop State) (g : α → β) (xs : List α) :
    forEach act (xs.map g) = forEach (fun x => act (g x)) xs := by
  induction xs with
  | nil => rfl
  | cons x xs ih => rw [List.map_cons, forEach_cons, forEach_cons, ih]

theorem forEach_flatMap {α β : Type} (act : β → State → Except Stop State) (g : α → List β) (xs : List α) :
    forEach act (xs.flatMap g) = forEach (fun x => forEach act (g x)) xs := by
  induction xs with
  | nil => rfl
  | cons x xs ih => rw [List.flatMap_cons, forEach_append_eq, forEach_cons, ih]

theorem forEach_replicate {α : Type} (act : α → State → Except Stop State) (n : Nat) (x : α) :
    forEach act (List.replicate n x) = repeated n (act x) := by
  induction n with
  | zero => rfl
  | succ n ih => rw [List.replicate_succ, forEach_cons, repeated_succ, ih]

theorem andThen_congr {f f' g g' : State → Except Stop State} {s : State} (hf : f' s = f s)
    (hg : ∀ t, f s = .ok t → g' t = g t) : andThen f' g' s = andThen f g s := by
  rw [andThen, andThen, hf]
  cases h : f s with
  | error e => rfl
  | ok t => exact hg t h

/-- Two loops agree where their passes agree on every state in which the pass fits. -/
theorem forEach_congr_of_advances {α : Type} {act act' : α → State → Except Stop State} {n : α → Nat}
    (hadvances : ∀ x, Advances (n x) (act x)) (heq : ∀ x s, s.bidx.toNat + n x ≤ capBits → act' x s = act x s) (xs : List α)
    {s : State} (hfits : s.bidx.toNat + (xs.map n).sum ≤ capBits) : forEach act' xs s = forEach act xs s := by
  induction xs generalizing s with
  | nil => rfl
  | cons x xs ih =>
    rw [List.map_cons, List.sum_cons] at hfits
    refine andThen_congr (heq x s (by omega)) fun t ht => ih ?_
    have hmoved := (hadvances x s (by omega)).1 t ht
    omega

/-! ### The bodies of R166's commands -/

/-- The commands before SE_ENCODE for physical sector k. -/
def headProgram (trk : Byte) (k : Nat) : List Instr :=
  addrPrologue.map .bwByte ++
      ([volume, trk, BitVec.ofNat 8 k, addressChecksum trk k].map .bw4and4 ++ epilogue.map .bwByte) ++
    (List.replicate addrGapSyncs .bwSync ++ dataPrologue.map .bwByte)

/-- The commands after SE_EMIT for physical sector k. -/
def tailProgram (k : Nat) : List Instr :=
  epilogue.map .bwByte ++ if k = 15 then [.bwByte syncByte] else List.replicate sectorGapSyncs .bwSync

theorem sectorProgram_eq (trk : Byte) (f : Interleave) (k : Nat) :
    sectorProgram trk f k =
      headProgram trk k ++ ([.seEncode (BitVec.ofNat 4 (logicalSector k f))] ++ ([.seEmit] ++ tailProgram k)) := rfl

theorem forEach_headProgram (trk : Byte) (k : Nat) : forEach commandBody (headProgram trk k) = sectorHead trk k := by
  simp only [headProgram, forEach_append_eq, forEach_map, forEach_replicate]
  rfl

theorem forEach_tailProgram (k : Nat) : forEach commandBody (tailProgram k) = sectorTail k := by
  unfold tailProgram sectorTail sectorGap
  rw [forEach_append_eq, forEach_map]
  split
  · rw [forEach_singleton]
    rfl
  · rw [forEach_replicate]
    rfl

theorem commandBody_seEncode (k : Nat) (f : Interleave) :
    commandBody (.seEncode (BitVec.ofNat 4 (logicalSector k f))) = encodeBody (logicalSector k f) := by
  rw [commandBody, BitVec.toNat_ofNat, Nat.mod_eq_of_lt (logicalSector_lt k f)]

/-- Where all data bytes fit, SE_EMIT writes them as TE_ENCODE does. -/
theorem commandBody_seEmit_of_fits {s : State} (hfits : s.bidx.toNat + 2744 ≤ capBits) :
    commandBody .seEmit s = forEach dataByte (List.range ebufBytes) s := by
  have hcheck : checkCapacity (ebufBytes * 8) s = .ok s := checkCapacity_eq_ok.mpr ⟨hfits, rfl⟩
  rw [commandBody, emitBody, andThen_of_ok hcheck, dataBytes_eq_emitLoop hfits]

theorem forEach_sectorProgram (trk : Byte) (f : Interleave) (k : Nat) (s : State)
    (hfits : s.bidx.toNat + sectorBits k ≤ capBits) :
    forEach commandBody (sectorProgram trk f k) s = sectorBody trk f k s := by
  rw [sectorProgram_eq, sectorBody_eq, forEach_append_eq, forEach_append_eq, forEach_append_eq, forEach_singleton,
    forEach_singleton, forEach_headProgram, forEach_tailProgram, commandBody_seEncode]
  rw [sectorBits] at hfits
  have hhead := pieceBits_headPieces trk k
  refine andThen_congr rfl fun t ht => andThen_congr rfl fun u hu => ?_
  refine andThen_congr (f := forEach dataByte (List.range ebufBytes)) (commandBody_seEmit_of_fits ?_) fun _ _ => rfl
  rw [sectorHead_puts trk k s (by omega)] at ht
  obtain rfl := Except.ok.inj ht
  have hmoved := putPieces_bidx_toNat (ps := headPieces trk k) (s := s) (by omega)
  have hkept := (encodeBody_advances (logicalSector k f) _ (by omega)).1 u hu
  omega

/-- The bodies of R166's commands are TE_ENCODE up to its writes of BITCNT and TRKFMT. -/
theorem forEach_trackProgram (trk : Byte) (f : Interleave) (s : State) :
    forEach commandBody (trackProgram trk f) s = trackStream trk f (trackStart s) := by
  have hclear : commandBody .bwClear s = .ok (clearTbuf s) := rfl
  have hrewind : commandBody (.bwSetidx 0#26) (clearTbuf s) = .ok (trackStart s) := by rw [trackStart]; rfl
  have hleader : repeated 64 (commandBody .bwSync) = repeated leaderSyncs syncBody := rfl
  rw [trackProgram, forEach_append_eq, forEach_append_eq, ← andThen_assoc, forEach_cons, forEach_singleton, forEach_replicate,
    forEach_flatMap, ← andThen_assoc, andThen_of_ok hclear, andThen_of_ok hrewind, hleader, trackStream, sectors]
  refine andThen_congr rfl fun t ht => forEach_congr_of_advances (sectorBody_advances trk f) (forEach_sectorProgram trk f) _ ?_
  have hmoved := (syncBody_advances.repeated 64 (trackStart s) (by rw [trackStart_bidx, capBits]; decide)).1 t ht
  rw [hmoved, trackStart_bidx, capBits]
  decide

/-! ### Bodies do not depend on the host's pending interactions -/

/-- The action neither reads nor writes the host's list of interactions. -/
def IgnoresPending (act : State → Except Stop State) : Prop :=
  ∀ s rest, act { s with pending := rest } = (act s).map (fun t => { t with pending := rest })

namespace IgnoresPending

theorem andThen {f g : State → Except Stop State} (hf : IgnoresPending f) (hg : IgnoresPending g) :
    IgnoresPending (andThen f g) := by
  intro s rest
  rw [Machine.andThen, Machine.andThen, hf]
  cases f s with
  | error e => rfl
  | ok t => exact hg t rest

theorem forEach {α : Type} {act : α → State → Except Stop State} (h : ∀ x, IgnoresPending (act x)) (xs : List α) :
    IgnoresPending (forEach act xs) := by
  induction xs with
  | nil => exact fun _ _ => rfl
  | cons x xs ih => exact (h x).andThen ih

theorem repeated {act : State → Except Stop State} (h : IgnoresPending act) (n : Nat) : IgnoresPending (repeated n act) := by
  induction n with
  | zero => exact fun _ _ => rfl
  | succ n ih => exact h.andThen ih

end IgnoresPending

theorem checkCapacity_ignoresPending (n : Nat) : IgnoresPending (checkCapacity n) := by
  intro s rest
  unfold checkCapacity
  dsimp only
  split <;> rfl

theorem checkRange_ignoresPending (sp : Space) (a b : BitVec 13) : IgnoresPending (checkRange sp a b) := by
  intro s rest
  unfold checkRange
  split <;> rfl

theorem putPieces_setPending (ps : List Piece) (s : State) (rest : List HostAction) :
    putPieces ps { s with pending := rest } = { putPieces ps s with pending := rest } := by
  induction ps generalizing s with
  | nil => rfl
  | cons p ps ih =>
    rw [putPieces_cons, putPieces_cons, ← ih, putPiece, putByte_setPending]
    rfl

theorem readRange_setPending (sp : Space) (a n : Nat) (s : State) (rest : List HostAction) :
    readRange sp a n { s with pending := rest } = readRange sp a n s :=
  readRange_congr (by cases sp <;> rfl) a n

theorem writeRange_setPending (sp : Space) (a : Nat) (vs : List Byte) (s : State) (rest : List HostAction) :
    writeRange sp a vs { s with pending := rest } = { writeRange sp a vs s with pending := rest } := by
  induction vs generalizing a s with
  | nil => rfl
  | cons v vs ih =>
    rw [writeRange, writeRange, ← ih]
    cases sp <;> rfl

theorem absorbRange_ignoresPending (sp : Space) (a n : Nat) : IgnoresPending (absorbRange sp a n) := by
  intro s rest
  rw [absorbRange_eq_readRange, absorbRange_eq_readRange, readRange_setPending]
  cases readRange sp a n s <;> rfl

theorem emitLoop_ignoresPending (i n : Nat) : IgnoresPending (emitLoop i n) := by
  intro s rest
  rw [emitLoop_eq_readRange, emitLoop_eq_readRange, readRange_setPending]
  cases readRange .ebuf i n s with
  | error e => rfl
  | ok d => simp only [Except.map, ← putPieces_plain, putPieces_setPending]

theorem emitBody_ignoresPending : IgnoresPending emitBody := by
  unfold emitBody
  exact (checkCapacity_ignoresPending _).andThen (emitLoop_ignoresPending 0 ebufBytes)

theorem encodeBody_ignoresPending (l : Nat) : IgnoresPending (encodeBody l) := by
  intro s rest
  rw [encodeBody, encodeBody, readRange_setPending]
  cases readRange .pbuf (sectorBase l) sectorBytes s with
  | error e => rfl
  | ok p => exact congrArg Except.ok (writeRange_setPending _ _ _ s rest)

theorem byteBody_ignoresPending (v : Byte) : IgnoresPending (byteBody v) :=
  (checkCapacity_ignoresPending 8).andThen fun s rest => congrArg Except.ok (putByte_setPending v s rest)

theorem w44Body_ignoresPending (v : Byte) : IgnoresPending (w44Body v) :=
  (checkCapacity_ignoresPending 16).andThen fun s rest =>
    by simp only [putByte_setPending, Except.map]

theorem syncBody_ignoresPending : IgnoresPending syncBody :=
  (checkCapacity_ignoresPending _).andThen fun s rest => congrArg Except.ok (putPieces_setPending [syncPiece] s rest)

theorem sectorBody_ignoresPending (trk : Byte) (f : Interleave) (k : Nat) : IgnoresPending (sectorBody trk f k) := by
  have hbytes (bytes : List Byte) : IgnoresPending (fieldBytes bytes) := .forEach byteBody_ignoresPending bytes
  have hdata (i : Nat) : IgnoresPending (dataByte i) := by
    intro s rest
    unfold dataByte
    rw [show memRead .ebuf i { s with pending := rest } = memRead .ebuf i s from rfl]
    cases memRead .ebuf i s with
    | error e => rfl
    | ok v => exact byteBody_ignoresPending v s rest
  have hgap : IgnoresPending (sectorGap k) := by
    unfold sectorGap
    split
    · exact byteBody_ignoresPending _
    · exact syncBody_ignoresPending.repeated _
  rw [sectorBody_eq]
  exact ((((hbytes _).andThen ((IgnoresPending.forEach w44Body_ignoresPending _).andThen (hbytes _))).andThen
    ((syncBody_ignoresPending.repeated _).andThen (hbytes _))).andThen ((encodeBody_ignoresPending _).andThen
      ((IgnoresPending.forEach hdata _).andThen ((hbytes _).andThen hgap))))

theorem trackBody_ignoresPending (trk : Byte) (f : Interleave) : IgnoresPending (trackBody trk f) := by
  intro s rest
  have hstream : IgnoresPending (andThen (trackStream trk f) (fun t => .ok (t.setTrack trk f))) :=
    ((syncBody_ignoresPending.repeated _).andThen (.forEach (sectorBody_ignoresPending trk f) _)).andThen fun _ _ => rfl
  have hstart : (clearTbuf { s with pending := rest }).setBidx 0 = { (clearTbuf s).setBidx 0 with pending := rest } := by
    simp only [clearTbuf, State.setMem, State.setBidx]
  rw [trackBody_eq, trackBody_eq, hstart, hstream]

theorem commandBody_ignoresPending (i : Instr) : IgnoresPending (commandBody i) := by
  cases i with
  | nop | crcInit | crcByte | bwSetidx => exact fun _ _ => rfl
  | crcTbuf a b => exact (checkRange_ignoresPending .tbuf a b).andThen (absorbRange_ignoresPending _ _ _)
  | crcPbuf a b => exact (checkRange_ignoresPending .pbuf a b).andThen (absorbRange_ignoresPending _ _ _)
  | bwByte v => exact byteBody_ignoresPending v
  | bw4and4 v => exact w44Body_ignoresPending v
  | bwSync => exact syncBody_ignoresPending
  | bwClear =>
    intro s rest
    simp only [commandBody, clearTbuf, State.setMem, Except.map]
  | seEncode l => exact encodeBody_ignoresPending _
  | seEmit => exact emitBody_ignoresPending
  | teEncode trk f => exact trackBody_ignoresPending trk f

/-! ### The run of the commands -/

/-- Commands whose bodies finish one after another run to the end when the host issues them. -/
theorem run_of_commandBodies (is : List Instr) {s t : State} (hfree : faultFlag s = false)
    (h : forEach commandBody is s = .ok t) :
    Sys2Proof.core.run is.length { s with pending := is.map commandAction } = .next { t with pending := [] } := by
  induction is generalizing s with
  | nil => cases h; rfl
  | cons i is ih =>
    obtain ⟨u, hbody, hrest⟩ := andThen_eq_ok.mp h
    have hexec : exec i { s with pending := is.map commandAction } = .next { u with pending := is.map commandAction } := by
      refine exec_eq_next.mpr (.inl ?_)
      rw [commandBody_ignoresPending, hbody]
      rfl
    have hfree' : faultFlag u = false := by rwa [faultFlag, (commandBody_writesOnlyNamed hbody).status]
    exact (run_commandAction (s := { s with pending := (i :: is).map commandAction }) hfree rfl hexec is.length).trans
      (ih hfree' hrest)

/-- Settles O41: the bodies of the commands end in the state that TE_ENCODE reaches before its last two writes. -/
theorem teEncodeEqualsItsCommandSequence : Obligations.TeEncodeEqualsItsCommandSequence := by
  intro s trk f hfree hdefined
  obtain ⟨u, hu, hwrote, hexec⟩ := exists_exec_teEncode trk f hdefined
  have hbodies : forEach commandBody (trackProgram trk f) s = .ok u := by
    rw [forEach_trackProgram, trackStream_of_defined fun k _ => hdefined.sector (logicalSector_lt k f), hu]
  refine ⟨_, hexec, (run_of_commandBodies _ hfree hbodies).trans ?_⟩
  obtain ⟨m, e, n, rfl⟩ := hwrote
  rfl

end Sys2Proof.Machine
end

section
/-! ## Proofs: faults (spec/60_exceptions.md R202 to R206)

A recorded fault stays until reset, a command enters its own faults precisely, and each command meets only the faults its checks
and its reads can give. -/

namespace Sys2Proof.Machine

/-! ### While a fault is recorded (R204, R205) -/

/-- While a fault is recorded every interaction but reset leaves the registers and EBUF: only a byte the host stores in PBUF or TBUF
and what its reads count and log can change. -/
theorem hostEffect_of_fault {act : HostAction} {s t : State} (hfault : faultFlag s = true) (hact : act ≠ .reset)
    (h : HostEffect s act t) :
    ∃ pbuf tbuf draws log, t = { s with pbuf := pbuf, tbuf := tbuf, draws := draws, readLog := log } := by
  cases h with
  | read w addr log draws => exact ⟨s.pbuf, s.tbuf, draws, log, rfl⟩
  | store addr v sp i hsp hi =>
    cases sp with
    | pbuf => exact ⟨_, s.tbuf, s.draws, s.readLog, rfl⟩
    | tbuf => exact ⟨s.pbuf, _, s.draws, s.readLog, rfl⟩
    | ebuf => exact absurd rfl hsp
  | nothing => exact ⟨s.pbuf, s.tbuf, s.draws, s.readLog, rfl⟩
  | illegal w e hfree => exact absurd hfault (by simp [hfree])
  | command w i t hfree => exact absurd hfault (by simp [hfree])
  | reset => exact absurd rfl hact

@[simp] theorem faultFlag_resetEngine (s : State) : faultFlag (resetEngine s) = false := by
  simp [faultFlag]

/-- Settles O8: the ignored write to CMD, the effect of every other interaction (`hostEffect_of_fault`), and the reset action. -/
theorem faultIsStickyUntilReset : Obligations.FaultIsStickyUntilReset := by
  refine ⟨fun s w rest hfault hpending => ?_, fun s t hfault hnoreset h => ?_, fun s rest hpending => ?_⟩
  · rw [step_of_cmd_write hpending]
    exact issueCommand_of_fault hfault
  · obtain ⟨-, rfl⟩ | ⟨act, rest, hpending, heffect⟩ := step_effect h
    · exact ⟨rfl, rfl, rfl, rfl, rfl, rfl, fun _ => rfl⟩
    · have hact : act ≠ .reset := by
        rintro rfl
        exact hnoreset rest hpending
      obtain ⟨pbuf, tbuf, draws, log, rfl⟩ := hostEffect_of_fault (s := { s with pending := rest }) hfault hact heffect
      exact ⟨rfl, rfl, rfl, rfl, rfl, rfl, fun _ => rfl⟩
  · exact ⟨_, step_of_pending hpending, faultFlag_resetEngine _⟩

/-! ### Fault entry by a command (R201, R203) -/

@[simp] theorem statusWord_capacity : statusWord .capacity = 0x201#32 := rfl

@[simp] theorem statusWord_range : statusWord .range = 0x301#32 := rfl

/-- Settles O9: a finished body leaves both registers, and a fault is entered in the state before the command. -/
theorem commandFaultsArePrecise : Obligations.CommandFaultsArePrecise := by
  intro i s t h
  obtain hwrites | ⟨c, rfl, ⟨rfl, -⟩ | ⟨rfl, -⟩⟩ := exec_next_cases h
  · exact .inl ⟨hwrites.status, hwrites.faultcmd⟩
  · exact .inr ⟨2#32, .inl rfl, rfl⟩
  · exact .inr ⟨3#32, .inr rfl, rfl⟩

/-! ### The undefined bytes a command can meet (R202, R206) -/

/-- Byte b of a RAM lies inside it and nothing has written it since reset (R206). -/
def UndefinedIn (s : State) (sp : Space) (b : Nat) : Prop := b < sp.size ∧ Memory.read (s.mem sp) b = none

section
variable {sp sp' : Space} {b : Nat} {s : State}

/-- A range read inside its RAM stops only at an undefined byte of that RAM. -/
theorem readRange_undefRead {a n : Nat} (hfits : a + n ≤ sp.size) (h : readRange sp a n s = .error (.undefRead sp' b)) :
    sp = sp' ∧ UndefinedIn s sp' b := by
  obtain ⟨k, hk, heq, hnone, -⟩ := readRange_eq_error h
  cases heq
  exact ⟨rfl, by omega, hnone⟩

theorem except_map_eq_error {ε α β : Type} {r : Except ε α} {f : α → β} {e : ε} (h : r.map f = .error e) :
    r = .error e := by
  cases r with
  | error e' => cases h; rfl
  | ok v => cases h

/-- A range command reads only inside its RAM, since the check comes first (R102). -/
theorem commandBody_undefRead_of_checkedRange {i : Instr} {a n : Nat} (hi : checkedRange i = some (sp, a, n))
    (h : commandBody i s = .error (.undefRead sp' b)) : sp = sp' ∧ UndefinedIn s sp' b := by
  rw [commandBody_of_checkedRange hi] at h
  split at h
  · cases h
  · rw [absorbRange_eq_readRange] at h
    exact readRange_undefRead (by omega) (except_map_eq_error h)

/-- SE_ENCODE reads the PBUF bytes of one logical sector (R140). -/
theorem encodeBody_undefRead {l : Nat} (hl : l < 16) (h : encodeBody l s = .error (.undefRead sp' b)) :
    .pbuf = sp' ∧ UndefinedIn s sp' b := by
  have hfits : sectorBase l + sectorBytes ≤ Space.size .pbuf := by
    rw [sectorBase, sectorBytes, Space.size, pbufBytes]
    omega
  unfold encodeBody at h
  split at h
  · next e hread =>
    cases h
    exact readRange_undefRead hfits hread
  · cases h

/-- The capacity check reads no RAM. -/
theorem undefRead_of_andThen_checkCapacity {n : Nat} {act : State → Except Stop State}
    (h : andThen (checkCapacity n) act s = .error (.undefRead sp b)) : act s = .error (.undefRead sp b) := by
  obtain hcheck | ⟨t, hcheck, hact⟩ := andThen_eq_error.mp h
  · obtain ⟨-, heq⟩ := checkCapacity_eq_error.mp hcheck
    cases heq
  · obtain ⟨-, rfl⟩ := checkCapacity_eq_ok.mp hcheck
    exact hact

/-- SE_EMIT reads the bytes of EBUF (R148). -/
theorem emitBody_undefRead (h : emitBody s = .error (.undefRead sp' b)) : .ebuf = sp' ∧ UndefinedIn s sp' b := by
  have hloop : emitLoop 0 ebufBytes s = .error (.undefRead sp' b) := undefRead_of_andThen_checkCapacity h
  rw [emitLoop_eq_readRange] at hloop
  exact readRange_undefRead (by rw [Nat.zero_add, Space.size]) (except_map_eq_error hloop)

/-- TE_ENCODE completes over a defined payload, and over any other it stops at an undefined byte of PBUF: its reads of EBUF meet
only what it has just stored there (R160). -/
theorem trackBody_undefRead {trk : Byte} {f : Interleave} (h : trackBody trk f s = .error (.undefRead sp' b)) :
    .pbuf = sp' ∧ UndefinedIn s sp' b := by
  have hexec : exec (.teEncode trk f) s = .fault (.undefRead sp' b) := by
    rw [exec_eq_complete, commandBody, h]
    rfl
  by_cases hdefined : Defined s .pbuf 0 4096
  · obtain ⟨u, -, -, hnext⟩ := exists_exec_teEncode trk f hdefined
    cases hexec.symm.trans hnext
  · obtain ⟨j, hj, hnone, -⟩ := exists_first_undefined hdefined
    obtain ⟨hstops, -⟩ := teEncodeStopsAtAnUndefinedByte s trk f
    obtain ⟨a, ha, hread, hfault⟩ := hstops (0 + j) (by omega) hnone
    cases hexec.symm.trans hfault
    exact ⟨rfl, ha, hread⟩

end

/-- A command's body meets only undefined bytes of the RAM that R202 names for it. -/
theorem commandBody_undefRead {i : Instr} {s : State} {sp : Space} {b : Nat}
    (h : commandBody i s = .error (.undefRead sp b)) : undefSpace i = some sp ∧ UndefinedIn s sp b := by
  cases i with
  | crcTbuf | crcPbuf => exact (commandBody_undefRead_of_checkedRange rfl h).imp_left (congrArg some)
  | seEncode l => exact (encodeBody_undefRead l.isLt h).imp_left (congrArg some)
  | seEmit => exact (emitBody_undefRead h).imp_left (congrArg some)
  | teEncode => exact (trackBody_undefRead h).imp_left (congrArg some)
  | bwByte | bw4and4 | bwSync => cases undefRead_of_andThen_checkCapacity h
  | nop | crcInit | crcByte | bwSetidx | bwClear => cases h

/-- Settles O10: the fault a command enters by its checks (`exec_next_cases`), the undefined byte its body meets
(`commandBody_undefRead`), and `complete`, which refuses nothing. -/
theorem faultsEachCommandCanRaise : Obligations.FaultsEachCommandCanRaise := by
  refine ⟨fun i s t hzero h => ?_, fun i s x h => ?_, fun i s x => ?_⟩
  · obtain hwrites | ⟨c, rfl, ⟨rfl, hchecks⟩ | ⟨rfl, hchecks⟩⟩ := exec_next_cases h
    · exact .inl (hwrites.status.trans hzero)
    · exact .inr (.inl ⟨statusWord_capacity, hchecks⟩)
    · exact .inr (.inr ⟨statusWord_range, hchecks⟩)
  · rw [exec_eq_complete] at h
    obtain ⟨sp, b, hbody, rfl⟩ := complete_eq_fault.mp h
    obtain ⟨hspace, hundefined⟩ := commandBody_undefRead hbody
    exact ⟨sp, b, hspace, rfl, hundefined⟩
  · rw [exec_eq_complete]
    exact complete_ne_refused i s _ x

end Sys2Proof.Machine
end

section
/-! ## Proofs: the host contract (spec/20_memory.md R51, R52, spec/60_exceptions.md R217) and the default CRCT (spec/10_state.md R32)

`accessAllowed` judges an access by the ranges of the window, and `resolve` by what `locate` finds at each address. The two agree
because `locate` finds each kind of location exactly on its range. -/

namespace Sys2Proof.Machine

/-! ### What stands at an address of the window (R51) -/

/-- The addresses where the window holds a kind of location, as ranges; the four kinds exclude each other. -/
def Location.StandsAt (a : Nat) : Location → Prop
  | .ram _ _ => windowRam a = true
  | .register _ => 0x5000 ≤ a ∧ a < 0x5024 ∧ a % 4 = 0
  | .insideRegister => 0x5000 ≤ a ∧ a < 0x5024 ∧ a % 4 ≠ 0
  | .unmapped => windowMapped a = false

theorem windowMapped_eq_true_iff {a : Nat} : windowMapped a = true ↔
    a < 0x1000 ∨ 0x2000 ≤ a ∧ a < 0x3A00 ∨ 0x4000 ≤ a ∧ a < 0x4157 ∨ 0x5000 ≤ a ∧ a < 0x5024 := by
  simp [windowMapped, or_assoc]

theorem windowMapped_eq_false_iff {a : Nat} : windowMapped a = false ↔
    ¬ (a < 0x1000 ∨ 0x2000 ≤ a ∧ a < 0x3A00 ∨ 0x4000 ≤ a ∧ a < 0x4157 ∨ 0x5000 ≤ a ∧ a < 0x5024) := by
  rw [← windowMapped_eq_true_iff, Bool.not_eq_true]

theorem windowRam_eq_true_iff {a : Nat} : windowRam a = true ↔ windowMapped a = true ∧ a < 0x5000 := by
  simp [windowRam]

/-- The multiples of 4 in the register area hold the nine registers of R23. -/
theorem exists_registerAt_eq {a : Nat} (hlo : 0x5000 ≤ a) (hhi : a < 0x5024) :
    ∃ r, registerAt ((a - 0x5000) / 4) = .register r := by
  have hn : (a - 0x5000) / 4 < 9 := by omega
  interval_cases (a - 0x5000) / 4 <;> exact ⟨_, rfl⟩

theorem registerAt_standsAt {a : Nat} (hlo : 0x5000 ≤ a) (hhi : a < 0x5024) (haligned : a % 4 = 0) :
    (registerAt ((a - 0x5000) / 4)).StandsAt a := by
  obtain ⟨r, hr⟩ := exists_registerAt_eq hlo hhi
  rw [hr]
  exact ⟨hlo, hhi, haligned⟩

/-- The address map finds each kind of location only where it stands. -/
theorem locate_standsAt (a : Nat) : (locate a).StandsAt a := by
  unfold locate
  split_ifs
  -- a multiple of 4 in the register area
  on_goal 7 => exact registerAt_standsAt (by omega) (by omega) ‹a % 4 = 0›
  all_goals
    simp only [Location.StandsAt, windowRam_eq_true_iff, windowMapped_eq_true_iff, windowMapped_eq_false_iff]
    omega

theorem locate_eq_unmapped_iff {a : Nat} : locate a = .unmapped ↔ windowMapped a = false := by
  have hstands := locate_standsAt a
  cases hlocate : locate a <;> rw [hlocate, Location.StandsAt] at hstands
  case unmapped => exact iff_of_true rfl hstands
  case ram => simp [(windowRam_eq_true_iff.mp hstands).1]
  case register | insideRegister =>
    simp only [reduceCtorEq, false_iff, windowMapped_eq_false_iff]
    omega

theorem exists_locate_eq_ram_iff {a : Nat} : (∃ sp i, locate a = .ram sp i) ↔ windowRam a = true := by
  have hstands := locate_standsAt a
  cases hlocate : locate a <;> rw [hlocate, Location.StandsAt] at hstands
  case ram sp i => exact iff_of_true ⟨sp, i, rfl⟩ hstands
  case unmapped => simp [windowRam_eq_true_iff, hstands]
  case register | insideRegister =>
    simp only [reduceCtorEq, exists_false, false_iff, windowRam_eq_true_iff]
    omega

theorem exists_locate_eq_register_iff {a : Nat} :
    (∃ r, locate a = .register r) ↔ 0x5000 ≤ a ∧ a < 0x5024 ∧ a % 4 = 0 := by
  have hstands := locate_standsAt a
  cases hlocate : locate a <;> rw [hlocate, Location.StandsAt] at hstands
  case register r => exact iff_of_true ⟨r, rfl⟩ hstands
  case ram | insideRegister | unmapped =>
    simp only [reduceCtorEq, exists_false, false_iff, windowRam_eq_true_iff, windowMapped_eq_false_iff] at hstands ⊢
    omega

/-! ### What an access reaches (R52) -/

/-- Every byte an access covers is unmapped (log 10). -/
def CoversUnmapped (w : Width) (a : Nat) : Prop := ∀ k, k < w.bytes → windowMapped (a + k) = false

/-- The contract of R52 in the terms of the address map. -/
theorem accessAllowed_iff {w : Width} {addr : BitVec 16} : accessAllowed w addr = true ↔
    (w = .w8 ∧ ∃ sp i, locate addr.toNat = .ram sp i) ∨ (w = .w32 ∧ ∃ r, locate addr.toNat = .register r) ∨
      CoversUnmapped w addr.toNat := by
  rw [exists_locate_eq_ram_iff, exists_locate_eq_register_iff]
  simp [accessAllowed, CoversUnmapped, and_assoc, or_assoc]

/-- `resolve` asks `locate` for each byte what the contract asks `windowMapped`. -/
theorem all_locate_unmapped_iff {w : Width} {a : Nat} :
    (List.range w.bytes).all (fun k => locate (a + k) == .unmapped) = true ↔ CoversUnmapped w a := by
  simp [CoversUnmapped, locate_eq_unmapped_iff]

theorem resolve_eq_unmapped {w : Width} {addr : BitVec 16} (hcovers : CoversUnmapped w addr.toNat) :
    resolve w addr = .unmapped := by
  have hfirst : locate addr.toNat = .unmapped := locate_eq_unmapped_iff.mpr (hcovers 0 (by cases w <;> decide))
  unfold resolve
  rw [hfirst]
  cases w <;> exact if_pos (all_locate_unmapped_iff.mpr hcovers)

theorem resolve_w32_eq_register {addr : BitVec 16} {r : Reg} (hlocate : locate addr.toNat = .register r) :
    resolve .w32 addr = .register r := by
  unfold resolve
  rw [hlocate]

/-- An access has no move exactly when the contract does not allow it. -/
theorem resolve_eq_noMove_iff {w : Width} {addr : BitVec 16} : resolve w addr = .noMove ↔ accessAllowed w addr = false := by
  rw [← Bool.not_eq_true, accessAllowed_iff]
  unfold resolve
  split
  case h_1 sp i hlocate => exact iff_of_false nofun (not_not_intro (.inl ⟨rfl, sp, i, hlocate⟩))
  case h_2 r hlocate => exact iff_of_false nofun (not_not_intro (.inr (.inl ⟨rfl, r, hlocate⟩)))
  case h_3 w _ _ hram hregister =>
    have hnoByte : ¬ (w = .w8 ∧ ∃ sp i, locate addr.toNat = .ram sp i) := fun ⟨hw, sp, i, hlocate⟩ => hram sp i hw hlocate
    have hnoWord : ¬ (w = .w32 ∧ ∃ r, locate addr.toNat = .register r) := fun ⟨hw, r, hlocate⟩ => hregister r hw hlocate
    rw [or_iff_right hnoByte, or_iff_right hnoWord, ← all_locate_unmapped_iff]
    split
    next hcovers => exact iff_of_false nofun (not_not_intro hcovers)
    next hcovers => exact iff_of_true rfl hcovers

/-! ### Which interactions are refused (R52, R217) -/

theorem width_of_resolve_eq_ramByte {w : Width} {addr : BitVec 16} {sp : Space} {i : Nat}
    (h : resolve w addr = .ramByte sp i) : w = .w8 := by
  unfold resolve at h
  split at h
  · rfl
  · cases h
  · split at h <;> cases h

theorem width_of_resolve_eq_register {w : Width} {addr : BitVec 16} {r : Reg} (h : resolve w addr = .register r) :
    w = .w32 := by
  unfold resolve at h
  split at h
  · cases h
  · rfl
  · split at h <;> cases h

/-- A 16-bit access reaches nothing but unmapped addresses. -/
theorem resolve_w16_eq_noMove {addr : BitVec 16} (h : resolve .w16 addr ≠ .unmapped) : resolve .w16 addr = .noMove := by
  cases hresolve : resolve .w16 addr with
  | ramByte sp i => cases width_of_resolve_eq_ramByte hresolve
  | register r => cases width_of_resolve_eq_register hresolve
  | unmapped => exact absurd hresolve h
  | noMove => rfl

section
variable {s : State} {x : Refusal}

theorem hostRead_eq_refused {w : Width} {addr : BitVec 16} :
    hostRead w addr s = .refused x ↔ resolve w addr = .noMove ∧ x = .noMove (.read w addr) := by
  unfold hostRead
  split
  case h_1 hresolve => split <;> simp [hresolve]
  all_goals simp [eq_comm, *]

theorem hostWrite8_eq_refused {addr : BitVec 16} {v : Byte} :
    hostWrite8 addr v s = .refused x ↔ resolve .w8 addr = .noMove ∧ x = .noMove (.write8 addr v) := by
  unfold hostWrite8
  split
  case h_3 hresolve => cases width_of_resolve_eq_register hresolve
  all_goals simp [eq_comm, *]

theorem hostWrite16_eq_refused {addr v : BitVec 16} :
    hostWrite16 addr v s = .refused x ↔ resolve .w16 addr = .noMove ∧ x = .noMove (.write16 addr v) := by
  unfold hostWrite16
  split
  case h_1 hresolve => simp [hresolve]
  case h_2 hresolve => simp [resolve_w16_eq_noMove hresolve, eq_comm]

/-- A word written to CMD is never refused: every command has its meaning (R75). -/
theorem issueCommand_ne_refused (w : Word) (s : State) (x : Refusal) : issueCommand w s ≠ .refused x := by
  unfold issueCommand
  split
  · exact nofun
  · split
    · exact nofun
    · rw [exec_eq_complete]
      exact complete_ne_refused _ s _ x

theorem hostWrite32_eq_refused {addr : BitVec 16} {v : Word} :
    hostWrite32 addr v s = .refused x ↔ resolve .w32 addr = .noMove ∧ x = .noMove (.write32 addr v) := by
  unfold hostWrite32
  split
  case h_1 hresolve => simp [hresolve, issueCommand_ne_refused]
  case h_3 hresolve => cases width_of_resolve_eq_ramByte hresolve
  all_goals simp [eq_comm, *]

/-- An interaction is refused exactly when it breaks the contract, and the refusal names it. -/
theorem hostStep_eq_refused {act : HostAction} :
    hostStep act s = .refused x ↔ act.wellFormed = false ∧ x = .noMove act := by
  cases act with
  | read w addr => rw [hostStep, hostRead_eq_refused, resolve_eq_noMove_iff, HostAction.wellFormed]
  | write8 addr v => rw [hostStep, hostWrite8_eq_refused, resolve_eq_noMove_iff, HostAction.wellFormed]
  | write16 addr v => rw [hostStep, hostWrite16_eq_refused, resolve_eq_noMove_iff, HostAction.wellFormed]
  | write32 addr v => rw [hostStep, hostWrite32_eq_refused, resolve_eq_noMove_iff, HostAction.wellFormed]
  | reset => simp [hostStep, HostAction.wellFormed]

end

/-- Settles O47: an interaction is refused exactly when it breaks the contract (`hostStep_eq_refused`). -/
theorem onlyAccessesOutsideTheContractAreRefused : Obligations.OnlyAccessesOutsideTheContractAreRefused := by
  intro s act rest hpending
  rw [step_of_pending hpending]
  exact ⟨⟨fun ⟨_, h⟩ => (hostStep_eq_refused.mp h).1, fun hbreaks => ⟨_, hostStep_eq_refused.mpr ⟨hbreaks, rfl⟩⟩⟩,
    fun hbreaks => hostStep_eq_refused.mpr ⟨hbreaks, rfl⟩⟩

/-! ### Accesses that reach nothing, and read-only registers (R52) -/

theorem hostRead_unmapped {w : Width} {addr : BitVec 16} (hcovers : CoversUnmapped w addr.toNat) (s : State) :
    hostRead w addr s = .next (s.logRead (drawnValue w s)).countDraw := by
  rw [hostRead, resolve_eq_unmapped hcovers]

theorem hostWrite8_unmapped {addr : BitVec 16} (hcovers : CoversUnmapped .w8 addr.toNat) (v : Byte) (s : State) :
    hostWrite8 addr v s = .next s := by
  rw [hostWrite8, resolve_eq_unmapped hcovers]

theorem hostWrite16_unmapped {addr : BitVec 16} (hcovers : CoversUnmapped .w16 addr.toNat) (v : BitVec 16) (s : State) :
    hostWrite16 addr v s = .next s := by
  rw [hostWrite16, resolve_eq_unmapped hcovers]

theorem hostWrite32_unmapped {addr : BitVec 16} (hcovers : CoversUnmapped .w32 addr.toNat) (v : Word) (s : State) :
    hostWrite32 addr v s = .next s := by
  rw [hostWrite32, resolve_eq_unmapped hcovers]

/-- A 32-bit write to a register other than CMD has no effect. -/
theorem hostWrite32_register {addr : BitVec 16} {r : Reg} (hlocate : locate addr.toNat = .register r) (hr : r ≠ .cmd)
    (v : Word) (s : State) : hostWrite32 addr v s = .next s := by
  rw [hostWrite32, resolve_w32_eq_register hlocate]
  cases r with
  | cmd => exact absurd rfl hr
  | _ => rfl

/-- Settles O48: what an access that covers unmapped bytes alone does, one width of a write a clause, and a write past CMD in the
register area. -/
theorem unmappedAndReadOnlyAccesses : Obligations.UnmappedAndReadOnlyAccesses := by
  intro s rest addr
  refine ⟨fun w hcovers hpending => ⟨drawnValue w s, ?_, ?_⟩, fun v hunmapped hpending => ?_, fun v hcovers hpending => ?_,
    fun v hcovers hpending => ?_, fun v hlo hhi haligned hpending => ?_⟩
  · rw [step_of_pending hpending]
    exact hostRead_unmapped hcovers _
  · cases w <;> rfl
  · have hcovers : CoversUnmapped .w8 addr.toNat := by
      intro k hk
      obtain rfl : k = 0 := Nat.lt_one_iff.mp hk
      exact hunmapped
    rw [step_of_pending hpending]
    exact hostWrite8_unmapped hcovers v _
  · rw [step_of_pending hpending]
    exact hostWrite16_unmapped hcovers v _
  · rw [step_of_pending hpending]
    exact hostWrite32_unmapped hcovers v _
  · obtain ⟨r, hlocate⟩ := exists_locate_eq_register_iff.mpr ⟨hlo.le, hhi, haligned⟩
    have hr : r ≠ .cmd := by
      rintro rfl
      exact hlo.ne' (locate_eq_cmd hlocate)
    rw [step_of_pending hpending]
    exact hostWrite32_register hlocate hr v _

/-! ### The default CRCT (R32) -/

theorem crctTable_length : crctTable.length = 256 := by
  simp only [crctTable, List.length_append, crctPart0, crctPart1, crctPart2, crctPart3, crctPart4, crctPart5, crctPart6,
    crctPart7, List.length_cons, List.length_nil]

/-- Settles O12, each entry by the division of its index (`crct_eq_crcBitStep_iterate`). -/
theorem crcTableIsGenerated : Obligations.CrcTableIsGenerated :=
  ⟨crctTable_length, crct_eq_crcBitStep_iterate⟩

end Sys2Proof.Machine
end
